-- ==== Sys2Proof/Word.lean ====
section
/-! DEFINITION. The words of the block and the fixed register arrays: the byte of rule R12, the data byte of
rule R61, the 14-bit value of rule R71, and arrays of sixteen registers indexed by the 4-bit field of rule R39. -/

namespace Sys2Proof

/-- A byte: an unsigned integer 0..255 (00_scope.md rule R12). -/
abbrev Byte := BitVec 8

/-- The seven significant bits of a data byte (30_encoding.md rule R61). -/
abbrev Data7 := BitVec 7

/-- An assembled value (30_encoding.md rule R71). -/
abbrev Value14 := BitVec 14

/-- A port or channel number as the wire carries it (20_memory.md rule R39). -/
abbrev Index4 := BitVec 4

/-- Sixteen registers, one for every value of the 4-bit index. -/
abbrev Regs16 (α : Type) := Vector α 16

end Sys2Proof
end

