-- ==== Sys2Proof/Config.lean ====
section
/-! DEFINITION. The implementation parameters of 00_scope.md section 4 (rules R6 to R11), with the one further parameter
that 93_implementation_defined.md entry U1 asks a model to have. They are fixed when an instance is constructed and
no step changes them (rules R36, R147); a state carries its own copy, so that every statement over all states is a
statement over every legal configuration. The spec leaves no VALUE open, so there is no free value here. -/

namespace Sys2Proof

/-- What the sysex store at offset 32 does: 93_implementation_defined.md entry U1.
`truncate` is rule R123; `fault` is the treatment for an implementation that fails there. -/
inductive SysexOverflow where
  | truncate
  | fault
deriving DecidableEq, Repr

/-- The parameters of one instance (00_scope.md section 4, 93_implementation_defined.md entry U1). -/
structure Config where
  /-- `N_PORTS`, the number of digital ports in `DIN` and `DOUT` (rule R6). -/
  nPorts : Nat
  /-- `K_CHANNELS`, the number of analog channels in `AIN` (rule R7). -/
  kChannels : Nat
  /-- `MODE_PWM`, the mode byte `analogWrite` sends (rule R9). -/
  modePwm : Byte
  /-- `SYSEX_OVERFLOW` (entry U1). -/
  sysexOverflow : SysexOverflow
deriving DecidableEq, Repr

/-- The value of every parameter when no argument is given: the column "default" of 00_scope.md section 4, and `TRUNCATE`
of entry U1. PRESUMED for `MODE_PWM` = 3, which the spec marks as general knowledge (log entry 2). -/
def Config.default : Config :=
  { nPorts := 16, kChannels := 16, modePwm := 3, sysexOverflow := .truncate }

/-- `BUF_MAX`, the cells of the accumulation buffer (rule R8). -/
def bufMax : Nat := 32

/-- `N_REPORT_ANALOG` (rule R10). -/
def nReportAnalog : Nat := 6

/-- `N_REPORT_DIGITAL` (rule R10). -/
def nReportDigital : Nat := 2

end Sys2Proof
end

