-- ==== Sys2Proof/Syntax.lean ====
section
/-! DEFINITION. The instructions of the block: one constructor for each of the 35 rows of spec/opcode_table.json (rule R82),
the decoding contexts those rows belong to, the encoded forms, and the transactions of the ports (rules R43, R47, R48). -/

namespace Sys2Proof

/-- One constructor per row of spec/opcode_table.json, in the table's order. A row of `wire_header`, `wire_data` or
`wire_sysex` is one received byte (one Decoder step, rule R105); a row of `dispatch` is a micro-operation of the step
that takes a frame's second data byte (rule R109); a row of `cmd_port` is one host operation; a row of `query_port`
is one host query. -/
inductive Instr where
  -- space wire_header: a byte taken by step 3 (rules R73, R108)
  | dataStray (d : Data7)
  | unassigned8n (n : Index4)
  | digitalMessage (n : Index4)
  | unassignedAn (n : Index4)
  | unassignedBn (n : Index4)
  | reportAnalog (n : Index4)
  | reportDigital (n : Index4)
  | analogMessage (n : Index4)
  | startSysex
  | unassignedF1
  | unassignedF2F3 (low : BitVec 1)
  | setPinMode
  | unassignedF5
  | unassignedF6
  | endSysex
  | unassignedF8
  | reportVersion
  | unassignedFAFB (low : BitVec 1)
  | unassignedFCFD (low : BitVec 1)
  | unassignedFE
  | systemReset
  -- space wire_data: a byte taken by step 2 (rule R107)
  | dataByte (d : Data7)
  -- space wire_sysex: a byte taken by step 1 (rule R106)
  | endSysexBlock
  | sysexPayload (b : Byte)
  -- space dispatch: the micro-operation that CMD selects (rules R83, R84, R109)
  | setDigitalPort (port : Index4) (value : Value14)
  | setAnalogChannel (channel : Index4) (value : Value14)
  | setVersion (major minor : Data7)
  -- space cmd_port: the host operations (rule R78)
  | pinMode (pin mode : Byte)
  | digitalWrite (pin : Byte) (value : BitVec 1)
  | analogWrite (pin value : Byte)
  | requestReports
  -- space query_port: the queries (rule R79)
  | readDigitalPin (pin : Byte)
  | readAnalogChannel (channel : Byte)
  | readVersion
  | queryUnassigned
deriving DecidableEq, Repr

/-- The three contexts in which a received byte is decoded: the arms of `DecStep` (rule R105), which rule R82 calls
`wire_header` (step 3), `wire_data` (step 2) and `wire_sysex` (step 1). -/
inductive Space where
  | header
  | data
  | sysex
deriving DecidableEq, Repr

/-- An encoded instruction: the bits the table's row gives it, with the decoding context of rule R82 that tells the six
number spaces apart. -/
inductive Code where
  /-- A received byte in one of the three wire contexts. -/
  | wire (space : Space) (b : Byte)
  /-- What selects and feeds a dispatch micro-operation: `CMD`, `CHAN`, `BUF[0]`, `BUF[1]` (rule R109). -/
  | dispatch (cmd : Byte) (chan : Index4) (first second : Byte)
  /-- A command-port transaction: `op`, `pin`, `arg` (rules R47, R78). -/
  | command (op : BitVec 2) (pin arg : Byte)
  /-- A query-port transaction: `q`, `idx` (rules R48, R79). -/
  | query (q : BitVec 2) (idx : Byte)
deriving DecidableEq, Repr

/-- The six contexts of spec/opcode_table.json, its field `space` (rule R82). -/
inductive TableContext where
  | wireHeader
  | wireData
  | wireSysex
  | dispatch
  | cmdPort
  | queryPort
deriving DecidableEq, Repr

/-- The context an encoded form belongs to. -/
def Code.context : Code → TableContext
  | .wire .header _ => .wireHeader
  | .wire .data _ => .wireData
  | .wire .sysex _ => .wireSysex
  | .dispatch _ _ _ _ => .dispatch
  | .command _ _ _ => .cmdPort
  | .query _ _ => .queryPort

/-- The number that a row's `match` and `mask` are about: the received byte, the value of `CMD`, or the select code (rule R82). -/
def Code.selector : Code → Byte
  | .wire _ b => b
  | .dispatch cmd _ _ _ => cmd
  | .command op _ _ => op.setWidth 8
  | .query q _ => q.setWidth 8

/-- Why a `Code` is no instruction. No transaction of a port ever meets one of these (rules R74, R105): they name the
encoded forms that no step of the block can form. -/
inductive Reject where
  /-- A byte of 128 or more in context `wire_data`: step 2 does not take it, step 3 does (rule R105). -/
  | commandByteInDataSpace
  /-- A dispatch whose `CMD` is none of `0x90`, `0xE0`, `0xF9` (rule R109). -/
  | noMultiByteCommand
deriving DecidableEq, Repr

/-- One transaction of a port that carries an instruction: a received byte (rule R43), a host operation (rule R47), a
query (rule R48). -/
inductive Transaction where
  | rx (b : Byte)
  | command (op : BitVec 2) (pin arg : Byte)
  | query (q : BitVec 2) (idx : Byte)
deriving DecidableEq, Repr

end Sys2Proof
end

