-- ==== Sys2Proof/WellFormed.lean ====
section
/-! DEFINITION. What the types leave to check: a sysex payload byte is not `0xF7` (rules R70, R106), and the parameters lie in
the ranges of 00_scope.md section 4 (rules R6, R7). Every other operand range of the spec is the range of its type. -/

namespace Sys2Proof

/-- An instruction that the spec's encodings can spell. The one check: "any value except `0xF7`" (rule R70). -/
def Instr.wf : Instr → Bool
  | .sysexPayload b => b != 0xF7
  | .dataStray _ | .unassigned8n _ | .digitalMessage _ | .unassignedAn _ | .unassignedBn _ | .reportAnalog _
  | .reportDigital _ | .analogMessage _ | .startSysex | .unassignedF1 | .unassignedF2F3 _ | .setPinMode
  | .unassignedF5 | .unassignedF6 | .endSysex | .unassignedF8 | .reportVersion | .unassignedFAFB _
  | .unassignedFCFD _ | .unassignedFE | .systemReset | .dataByte _ | .endSysexBlock
  | .setDigitalPort _ _ | .setAnalogChannel _ _ | .setVersion _ _
  | .pinMode _ _ | .digitalWrite _ _ | .analogWrite _ _ | .requestReports
  | .readDigitalPin _ | .readAnalogChannel _ | .readVersion | .queryUnassigned => true

/-- The legal parameter values of 00_scope.md section 4: `N_PORTS` 1 to 16, `K_CHANNELS` 1 to 16. -/
def Config.wf (c : Config) : Bool :=
  decide (1 ≤ c.nPorts) && decide (c.nPorts ≤ 16) && decide (1 ≤ c.kChannels) && decide (c.kChannels ≤ 16)

end Sys2Proof
end

