-- ==== Sys2Proof/Decode.lean ====
section
/-! DEFINITION. Decoding, total on any byte of any context (rules R61 to R64, R73, R74, R105), the select codes of the two host
ports (rules R78, R79), the dispatch selection (rule R109), and the encoder written from the same tables. -/

namespace Sys2Proof

/-! Fields of a header byte and of a data byte. -/

/-- The command of a header byte: `b & 0xF0` below `0xF0`, `b` itself from `0xF0` on (rules R62, R63). -/
def commandField (b : Byte) : Byte := if b < 0xF0 then b &&& 0xF0 else b

/-- The channel of a channel-qualified header byte: `b & 0x0F` (rule R62). -/
def channelField (b : Byte) : Index4 := b.setWidth 4

/-- Bit 7 clear: a data byte (rule R61), the test `b < 128` of rule R105. -/
def isDataByte (b : Byte) : Bool := decide (b < 0x80)

/-- The 14-bit value of two data bytes: `first + (second << 7)` (rule R71). -/
def assemble (first second : Byte) : Value14 := first.setWidth 14 + (second.setWidth 14 <<< 7)

/-- The first data byte of a split value: `v & 0x7F` (rule R72). -/
def splitLow (v : Value14) : Byte := (v &&& 0x7F).setWidth 8

/-- The second data byte of a split value: `v >> 7` (rule R72). -/
def splitHigh (v : Value14) : Byte := (v >>> 7).setWidth 8

/-! The three wire contexts. -/

/-- Step 3: the complete header map (rule R73; rows `wire_header` of spec/opcode_table.json). -/
def decodeHeader (b : Byte) : Instr :=
  let c := commandField b
  let n := channelField b
  if c < 0x80 then .dataStray (b.setWidth 7)
  else if c = 0x80 then .unassigned8n n
  else if c = 0x90 then .digitalMessage n
  else if c = 0xA0 then .unassignedAn n
  else if c = 0xB0 then .unassignedBn n
  else if c = 0xC0 then .reportAnalog n
  else if c = 0xD0 then .reportDigital n
  else if c = 0xE0 then .analogMessage n
  else if c = 0xF0 then .startSysex
  else if c = 0xF1 then .unassignedF1
  else if c = 0xF2 ∨ c = 0xF3 then .unassignedF2F3 (b.setWidth 1)
  else if c = 0xF4 then .setPinMode
  else if c = 0xF5 then .unassignedF5
  else if c = 0xF6 then .unassignedF6
  else if c = 0xF7 then .endSysex
  else if c = 0xF8 then .unassignedF8
  else if c = 0xF9 then .reportVersion
  else if c = 0xFA ∨ c = 0xFB then .unassignedFAFB (b.setWidth 1)
  else if c = 0xFC ∨ c = 0xFD then .unassignedFCFD (b.setWidth 1)
  else if c = 0xFE then .unassignedFE
  else .systemReset

/-- Step 1: in sysex mode only `0xF7` is recognised (rules R61, R106). -/
def decodeSysex (b : Byte) : Instr := if b = 0xF7 then .endSysexBlock else .sysexPayload b

/-- Which arm of `DecStep` takes a byte: sysex mode, then pending data, then header (rules R105, R139). -/
def rxSpace (sysex : Bool) (rem : BitVec 2) (b : Byte) : Space :=
  if sysex then .sysex
  else if rem ≠ 0 ∧ isDataByte b then .data
  else .header

/-- The instruction a received byte is, given the two session registers that choose the arm (rule R105). Total:
"defined for every `b` in every state". -/
def decodeRx (sysex : Bool) (rem : BitVec 2) (b : Byte) : Instr :=
  match rxSpace sysex rem b with
  | .sysex => decodeSysex b
  | .data => .dataByte (b.setWidth 7)
  | .header => decodeHeader b

/-! The host ports and the dispatch. -/

/-- The select codes of the command port (rule R78). `arg[7:1]` of `digitalWrite` and the operands of `requestReports` are
ignored. -/
def decodeCommand (op : BitVec 2) (pin arg : Byte) : Instr :=
  if op = 0 then .pinMode pin arg
  else if op = 1 then .digitalWrite pin (arg.setWidth 1)
  else if op = 2 then .analogWrite pin arg
  else .requestReports

/-- The select codes of the query port (rule R79). -/
def decodeQuery (q : BitVec 2) (idx : Byte) : Instr :=
  if q = 0 then .readDigitalPin idx
  else if q = 1 then .readAnalogChannel idx
  else if q = 2 then .readVersion
  else .queryUnassigned

/-- The micro-operation a completed frame selects (rule R109). -/
def decodeDispatch (cmd : Byte) (chan : Index4) (first second : Byte) : Except Reject Instr :=
  if cmd = 0x90 then .ok (.setDigitalPort chan (assemble first second))
  else if cmd = 0xE0 then .ok (.setAnalogChannel chan (assemble first second))
  else if cmd = 0xF9 then .ok (.setVersion (second.setWidth 7) (first.setWidth 7))
  else .error .noMultiByteCommand

/-- Decoding of an encoded instruction in its context. -/
def decode : Code → Except Reject Instr
  | .wire .header b => .ok (decodeHeader b)
  | .wire .data b => if isDataByte b then .ok (.dataByte (b.setWidth 7)) else .error .commandByteInDataSpace
  | .wire .sysex b => .ok (decodeSysex b)
  | .dispatch cmd chan first second => decodeDispatch cmd chan first second
  | .command op pin arg => .ok (decodeCommand op pin arg)
  | .query q idx => .ok (decodeQuery q idx)

/-- The instruction one transaction of a port is, given the session registers that choose the Decoder's arm. Total: no
transaction is refused (rule R74). -/
def decodeTransaction (sysex : Bool) (rem : BitVec 2) : Transaction → Instr
  | .rx b => decodeRx sysex rem b
  | .command op pin arg => decodeCommand op pin arg
  | .query q idx => decodeQuery q idx

/-! The encoder. -/

/-- A channel-qualified header byte: the command's code or-ed with the nibble (rules R62, R72). -/
def headerCQ (code : Byte) (n : Index4) : Byte := code ||| n.setWidth 8

/-- The bits of an instruction in its context, from the tables of rules R64, R73, R78, R79 and R109. The ignored operands of the
host ports are zero. -/
def encode : Instr → Code
  | .dataStray d => .wire .header (d.setWidth 8)
  | .unassigned8n n => .wire .header (headerCQ 0x80 n)
  | .digitalMessage n => .wire .header (headerCQ 0x90 n)
  | .unassignedAn n => .wire .header (headerCQ 0xA0 n)
  | .unassignedBn n => .wire .header (headerCQ 0xB0 n)
  | .reportAnalog n => .wire .header (headerCQ 0xC0 n)
  | .reportDigital n => .wire .header (headerCQ 0xD0 n)
  | .analogMessage n => .wire .header (headerCQ 0xE0 n)
  | .startSysex => .wire .header 0xF0
  | .unassignedF1 => .wire .header 0xF1
  | .unassignedF2F3 x => .wire .header (0xF2 ||| x.setWidth 8)
  | .setPinMode => .wire .header 0xF4
  | .unassignedF5 => .wire .header 0xF5
  | .unassignedF6 => .wire .header 0xF6
  | .endSysex => .wire .header 0xF7
  | .unassignedF8 => .wire .header 0xF8
  | .reportVersion => .wire .header 0xF9
  | .unassignedFAFB x => .wire .header (0xFA ||| x.setWidth 8)
  | .unassignedFCFD x => .wire .header (0xFC ||| x.setWidth 8)
  | .unassignedFE => .wire .header 0xFE
  | .systemReset => .wire .header 0xFF
  | .dataByte d => .wire .data (d.setWidth 8)
  | .endSysexBlock => .wire .sysex 0xF7
  | .sysexPayload b => .wire .sysex b
  | .setDigitalPort port v => .dispatch 0x90 port (splitLow v) (splitHigh v)
  | .setAnalogChannel channel v => .dispatch 0xE0 channel (splitLow v) (splitHigh v)
  | .setVersion major minor => .dispatch 0xF9 0 (minor.setWidth 8) (major.setWidth 8)
  | .pinMode pin mode => .command 0 pin mode
  | .digitalWrite pin v => .command 1 pin (v.setWidth 8)
  | .analogWrite pin v => .command 2 pin v
  | .requestReports => .command 3 0 0
  | .readDigitalPin pin => .query 0 pin
  | .readAnalogChannel channel => .query 1 channel
  | .readVersion => .query 2 0
  | .queryUnassigned => .query 3 0

/-! The numbers of spec/opcode_table.json. -/

/-- `match` and `mask` of the 21 rows of context `wire_header`, in the table's order (rule R82). -/
def headerRows : List (Byte × Byte) :=
  [(0x00, 0x80), (0x80, 0xF0), (0x90, 0xF0), (0xA0, 0xF0), (0xB0, 0xF0), (0xC0, 0xF0), (0xD0, 0xF0)] ++
  [(0xE0, 0xF0), (0xF0, 0xFF), (0xF1, 0xFF), (0xF2, 0xFE), (0xF4, 0xFF), (0xF5, 0xFF), (0xF6, 0xFF)] ++
  [(0xF7, 0xFF), (0xF8, 0xFF), (0xF9, 0xFF), (0xFA, 0xFE), (0xFC, 0xFE), (0xFE, 0xFF), (0xFF, 0xFF)]

/-- `space`, `match` and `mask` of an instruction's row in spec/opcode_table.json (rule R82). -/
def tableRow : Instr → TableContext × Byte × Byte
  | .dataStray _ => (.wireHeader, 0x00, 0x80)
  | .unassigned8n _ => (.wireHeader, 0x80, 0xF0)
  | .digitalMessage _ => (.wireHeader, 0x90, 0xF0)
  | .unassignedAn _ => (.wireHeader, 0xA0, 0xF0)
  | .unassignedBn _ => (.wireHeader, 0xB0, 0xF0)
  | .reportAnalog _ => (.wireHeader, 0xC0, 0xF0)
  | .reportDigital _ => (.wireHeader, 0xD0, 0xF0)
  | .analogMessage _ => (.wireHeader, 0xE0, 0xF0)
  | .startSysex => (.wireHeader, 0xF0, 0xFF)
  | .unassignedF1 => (.wireHeader, 0xF1, 0xFF)
  | .unassignedF2F3 _ => (.wireHeader, 0xF2, 0xFE)
  | .setPinMode => (.wireHeader, 0xF4, 0xFF)
  | .unassignedF5 => (.wireHeader, 0xF5, 0xFF)
  | .unassignedF6 => (.wireHeader, 0xF6, 0xFF)
  | .endSysex => (.wireHeader, 0xF7, 0xFF)
  | .unassignedF8 => (.wireHeader, 0xF8, 0xFF)
  | .reportVersion => (.wireHeader, 0xF9, 0xFF)
  | .unassignedFAFB _ => (.wireHeader, 0xFA, 0xFE)
  | .unassignedFCFD _ => (.wireHeader, 0xFC, 0xFE)
  | .unassignedFE => (.wireHeader, 0xFE, 0xFF)
  | .systemReset => (.wireHeader, 0xFF, 0xFF)
  | .dataByte _ => (.wireData, 0x00, 0x80)
  | .endSysexBlock => (.wireSysex, 0xF7, 0xFF)
  | .sysexPayload _ => (.wireSysex, 0x00, 0x00)
  | .setDigitalPort _ _ => (.dispatch, 0x90, 0xFF)
  | .setAnalogChannel _ _ => (.dispatch, 0xE0, 0xFF)
  | .setVersion _ _ => (.dispatch, 0xF9, 0xFF)
  | .pinMode _ _ => (.cmdPort, 0x00, 0x03)
  | .digitalWrite _ _ => (.cmdPort, 0x01, 0x03)
  | .analogWrite _ _ => (.cmdPort, 0x02, 0x03)
  | .requestReports => (.cmdPort, 0x03, 0x03)
  | .readDigitalPin _ => (.queryPort, 0x00, 0x03)
  | .readAnalogChannel _ => (.queryPort, 0x01, 0x03)
  | .readVersion => (.queryPort, 0x02, 0x03)
  | .queryUnassigned => (.queryPort, 0x03, 0x03)

/-- The transaction that a number of the opcode table stands for, bit 0 the least significant bit of the first byte. The table's
six contexts number their rows independently (rule R82), so a number alone does not name its context. DESIGN CHOICE (log entry
5): a first byte 0..3 is a select code of a host port, with `pin` and `arg`, or `idx`, in the bytes after it (the command port
for a number of one byte or of three, as long as `op`, `pin`, `arg`; the query port for a number of two bytes, as long as `q`,
`idx`); any other first byte is a received byte, taken in `IDLE`. -/
def tableTransaction (nbits w : Nat) : Transaction :=
  let first := BitVec.ofNat 8 w
  let second := BitVec.ofNat 8 (w / 256)
  if first < 4 then
    if 8 < nbits ∧ nbits ≤ 16 then .query (first.setWidth 2) second
    else .command (first.setWidth 2) second (BitVec.ofNat 8 (w / 65536))
  else .rx first

/-- The instruction the decoder reads from a number of spec/opcode_table.json, in `IDLE`: see `tableTransaction`. -/
def decodeTableWord (nbits w : Nat) : Option Instr :=
  some (decodeTransaction false 0 (tableTransaction nbits w))

end Sys2Proof
end

