-- ==== Sys2Proof/Machine/State.lean ====
section
/-! DEFINITION. The state of one instance as plain data: the eleven registers of 10_state.md rule R17, and beside them what the
model itself needs to run them (the parameters, the host operation in progress, the inputs still to come, and the record
of what left the ports). The block has no memory, no program counter and no flag but `SYSEX` (rules R29, R31, R39). -/

namespace Sys2Proof.Machine

/-- The status that ends a host operation or a query (rules R15, R30, R134). -/
inductive Status where
  | ok
  | oob
deriving DecidableEq, Repr

/-- Why a step stops. -/
inductive Fault where
  /-- Raised by the sysex payload byte at offset 32 (`execSysexPayload`), only under the parameter value `SYSEX_OVERFLOW` = `FAULT`
  that 93_implementation_defined.md entry U1 asks for. Safe: the model stops where an implementation may "fail". Under the
  default `TRUNCATE` no step raises it. -/
  | sysexOverflow
deriving DecidableEq, Repr

/-- Why a step has no meaning. -/
inductive Refusal where
  /-- An instruction with no meaning yet, by its mnemonic in spec/opcode_table.json. Raised by `exec`'s refused arms, of which this
  model has none. Safe: the model stops. -/
  | notModelled (mnemonic : String)
deriving DecidableEq, Repr

/-- What one Encoder operation comes to: its status, its TX bytes in order, and `DOUT` after it (rule R91: "one atomic step whose
outputs are the status, the list of TX bytes and the new `DOUT`"). -/
structure EncoderResult where
  status : Status
  bytes : List Byte
  dout : Regs16 Byte
deriving DecidableEq, Repr

/-- A host operation in progress: the bytes the Transport has still to take, and the status the operation ends with
(rules R45, R91). -/
structure Busy where
  bytes : List Byte
  status : Status
deriving DecidableEq, Repr

/-- The answer to a query: a status and 14 bits of data (rule R48). -/
structure Answer where
  status : Status
  data : Value14
deriving DecidableEq, Repr

/-- The input signals at one rising edge of `clk`, the signal-level binding of rule R49. -/
structure PinsIn where
  rst : Bool
  rxValid : Bool
  rxData : Byte
  txReady : Bool
  cmdValid : Bool
  cmdOp : BitVec 2
  cmdPin : Byte
  cmdArg : Byte
  qSel : BitVec 2
  qIdx : Byte
deriving DecidableEq, Repr

/-- One thing the environment does to the block. -/
inductive Input where
  /-- One transaction of the RX, command or query port, taken as one atomic step (rules R3, R55, R91). -/
  | port (t : Transaction)
  /-- A host operation offered on the command port whose bytes the Transport takes one by one afterwards (rules R45, R91). -/
  | accept (op : BitVec 2) (pin arg : Byte)
  /-- The Transport takes one TX byte (rule R44). -/
  | take
  /-- A reset, with the transactions that coincide with it and are lost (rules R147, R150). -/
  | reset (lost : List Transaction)
  /-- One rising edge of the signal-level binding (rule R49). -/
  | edge (p : PinsIn)
deriving DecidableEq, Repr

/-- The whole state of one instance. -/
structure State where
  /-- The parameters of the instance, fixed at construction (rule R36). The model's own field. -/
  cfg : Config
  /-- `DIN[p]`: the digital port registers (rule R18). Ports at or above `N_PORTS` do not exist; their cells stay 0. -/
  din : Regs16 Byte
  /-- `AIN[c]`: the analog channel registers (rule R19). Channels at or above `K_CHANNELS` do not exist; their cells stay 0. -/
  ain : Regs16 Value14
  /-- `VMAJ`: the major version (rule R20). -/
  vmaj : Data7
  /-- `VMIN`: the minor version (rule R20). -/
  vmin : Data7
  /-- `DOUT[p]`: the Encoder's output mirror (rule R21). Cells at or above `N_PORTS` stay 0. -/
  dout : Regs16 Byte
  /-- `CMD`: the pending multi-byte command, `0x00` when none is (rule R22). -/
  cmd : Byte
  /-- `CHAN`: the channel or port of the pending command (rule R23). -/
  chan : Index4
  /-- `REM`: the data bytes still expected (rule R24). -/
  rem : BitVec 2
  /-- `BUF[i]`: the accumulation buffer (rule R25). -/
  buf : Vector Byte 32
  /-- `SYSEX`: inside a sysex block (rule R26). -/
  sysex : Bool
  /-- `SXCNT`: the sysex byte counter (rule R27). -/
  sxcnt : BitVec 6
  /-- The host operation in progress, if any (rules R45, R91). -/
  busy : Option Busy
  /-- What the environment still does, first thing first (rules R43, R47, R48, R58). The model's own field. -/
  inputs : List Input
  /-- The TX bytes the Transport has taken, first byte first (rule R44). The model's own record. -/
  tx : List Byte
  /-- The statuses of the finished host operations, oldest first (rules R15, R47). The model's own record. -/
  statuses : List Status
  /-- The answers given on the query port, oldest first (rule R48). The model's own record. -/
  answers : List Answer
deriving DecidableEq, Repr

/-- An instance right after its construction with the parameters `cfg`: every register at its value of rule R37, no operation
in progress, no input and no output. -/
def State.construct (cfg : Config) : State :=
  { cfg := cfg
    din := Vector.replicate 16 0, ain := Vector.replicate 16 0, vmaj := 0, vmin := 0
    dout := Vector.replicate 16 0
    cmd := 0x00, chan := 0, rem := 0, buf := Vector.replicate 32 0, sysex := false, sxcnt := 0
    busy := none, inputs := [], tx := [], statuses := [], answers := [] }

/-- The machine right after reset, at the default parameters (rules R37, R147). -/
def State.reset : State := State.construct Config.default

end Sys2Proof.Machine
end

