-- ==== Sys2Proof/Machine/Operands.lean ====
section
/-! DEFINITION. The operand forms: register arrays read and written by the 4-bit index (rule R39), the host's pin and channel
indices (rules R40, R41), and the buffer index (rule R42). -/

namespace Sys2Proof.Machine

/-- `X[i]`: read one register of an array (rule R14). -/
def getReg {α : Type} (v : Regs16 α) (i : Index4) : α := v[i.toNat]'i.isLt

/-- `X[i] <- x`: write one register of an array (rule R14). -/
def setReg {α : Type} (v : Regs16 α) (i : Index4) (x : α) : Regs16 α := v.set i.toNat x i.isLt

/-- The port of a pin: `pin >> 3`, 0..31 (rule R40). -/
def pinPort (pin : Byte) : Nat := (pin >>> 3).toNat

/-- The register index of a pin's port. It names the port whenever the pin is in range (rule R40). -/
def pinReg (pin : Byte) : Index4 := (pin >>> 3).setWidth 4

/-- The bit of a pin in its port: `pin & 7` (rule R40). -/
def pinBit (pin : Byte) : Nat := (pin &&& 7).toNat

/-- The register index of a host's channel number, which names the channel whenever it is in range (rule R41). -/
def channelReg (channel : Byte) : Index4 := channel.setWidth 4

/-- `(DIN[p] >> (pin & 7)) & 1`, widened to the query's 14 bits (rules R79, R85). -/
def pinValue (port : Byte) (pin : Byte) : Value14 := ((port >>> pinBit pin) &&& 1).setWidth 14

/-- One bit of a port value set or cleared: `m | (1 << bit)` or `m & ~(1 << bit)` within 8 bits (rules R93, R101). -/
def writeBit (m : Byte) (bit : Nat) (value : BitVec 1) : Byte :=
  if value = 1 then m ||| ((1 : Byte) <<< bit) else m &&& ~~~((1 : Byte) <<< bit)

/-- The cell a data byte of a multi-byte command goes to: `2 - REM` (rules R42, R107, 90_conflicts.md C1). -/
def dataCell (rem : BitVec 2) : Nat := (2 - rem).toNat

end Sys2Proof.Machine
end

