-- ==== Sys2Proof/Machine/Flags.lean ====
section
/-! DEFINITION. Conditions. The block has no condition codes (rule R29): what stands here are the two out-of-range tests of
rule R135, the code of a status (rule R134), and the predicates of the session that rule R33 names. -/

namespace Sys2Proof.Machine

/-- The OOB condition of `digitalWrite` and `readDigitalPin`: `pin >> 3` >= `N_PORTS` (rule R135). -/
def pinOutOfRange (cfg : Config) (pin : Byte) : Bool := decide (cfg.nPorts ≤ pinPort pin)

/-- The OOB condition of `readAnalogChannel`: `channel` >= `K_CHANNELS` (rule R135). -/
def channelOutOfRange (cfg : Config) (channel : Byte) : Bool := decide (cfg.kChannels ≤ channel.toNat)

/-- The code of a status on its port: `OK` is 0, `OOB` is 1 (rule R134). -/
def Status.code : Status → BitVec 1
  | .ok => 0
  | .oob => 1

/-- The named state `IDLE`: `SYSEX` = 0 and `REM` = 0 (rule R33). -/
def State.isIdle (s : State) : Bool := !s.sysex && decide (s.rem = 0)

end Sys2Proof.Machine
end

