-- ==== Sys2Proof/Machine/Ops.lean ====
section
/-! DEFINITION. The operations the meanings share: the Decoder's session and store (42_decoder.md, 40_store.md), the Encoder's
results and their completion (41_encoder.md), the query port, the out-of-bounds condition, which is this block's whole
"trap entry" (rule R141), and reset (70_reset_and_hazards.md). -/

namespace Sys2Proof.Machine

/-! ### The Decoder session (rules R106 to R108) -/

/-- A header of a multi-byte command that carries a channel: `CMD <- c; CHAN <- ch; REM <- 2` (rule R108). -/
def State.awaitChannelData (s : State) (c : Byte) (ch : Index4) : State := { s with cmd := c, chan := ch, rem := 2 }

/-- A header of a multi-byte command without a channel: `CMD <- c; REM <- 2`, `CHAN` not written (rule R108). -/
def State.awaitData (s : State) (c : Byte) : State := { s with cmd := c, rem := 2 }

/-- `state <- SYSEX(0)` (rules R33, R108). -/
def State.enterSysex (s : State) : State := { s with sysex := true, sxcnt := 0, rem := 0, cmd := 0x00 }

/-- `state <- IDLE` (rules R33, R106). `BUF` and `SXCNT` keep their contents. -/
def State.toIdle (s : State) : State := { s with sysex := false, rem := 0, cmd := 0x00 }

/-- `BUF[i] <- b` (rule R42: an index of 32 or more is never formed). -/
def State.storeCell (s : State) (i : Nat) (b : Byte) : State := { s with buf := s.buf.setIfInBounds i b }

/-- A sysex payload byte while `SXCNT` < 32: `BUF[SXCNT] <- b; SXCNT <- SXCNT + 1` (rule R106). -/
def State.storePayload (s : State) (b : Byte) : State :=
  { s.storeCell s.sxcnt.toNat b with sxcnt := s.sxcnt + 1 }

/-! ### The store's write micro-operations (rules R83, R84, R109) -/

/-- `setDigitalPort(port, value)`: the port takes `value[7:0]`; a port without a register is a dropped write (rule R83). -/
def State.putDigitalPort (s : State) (port : Index4) (value : Value14) : State :=
  if port.toNat < s.cfg.nPorts then { s with din := setReg s.din port (value.setWidth 8) } else s

/-- `setAnalogChannel(channel, value)`: all 14 bits; a channel without a register is a dropped write (rule R84). -/
def State.putAnalogChannel (s : State) (channel : Index4) (value : Value14) : State :=
  if channel.toNat < s.cfg.kChannels then { s with ain := setReg s.ain channel value } else s

/-- The version pair, both halves at once (rules R20, R109). -/
def State.putVersion (s : State) (major minor : Data7) : State := { s with vmaj := major, vmin := minor }

/-- `Dispatch()`: what a completed frame writes, selected by `CMD` (rule R109). A version register is one data byte wide
(rule R20); DEDUCED: a cell that rule R107 filled is below 128, so narrowing it loses nothing (log entry 7). -/
def State.dispatch (s : State) : State :=
  let first := s.buf[0]
  let second := s.buf[1]
  if s.cmd = 0x90 then s.putDigitalPort s.chan (assemble first second)
  else if s.cmd = 0xE0 then s.putAnalogChannel s.chan (assemble first second)
  else if s.cmd = 0xF9 then s.putVersion (second.setWidth 7) (first.setWidth 7)
  else s

/-- `Step2(b)`: store the byte, count it, and dispatch when it was the frame's last (rule R107). -/
def State.takeData (s : State) (b : Byte) : State :=
  let s1 := { s.storeCell (dataCell s.rem) b with rem := s.rem - 1 }
  if s1.rem = 0 ∧ s1.cmd ≠ 0x00 then { s1.dispatch with cmd := 0x00 } else s1

/-! ### The Encoder's results (rules R92 to R95) -/

/-- A frame of format PM: `F4 pin mode`, three raw bytes (rules R68, R92). -/
def framePM (pin mode : Byte) : List Byte := [0xF4, pin, mode]

/-- A frame of format CQ2 for an 8-bit value: header, `v & 0x7F`, `v >> 7` (rules R65, R72). -/
def frameCQ2 (header v : Byte) : List Byte := [header, v &&& 0x7F, v >>> 7]

/-- A frame of format CQ1 with the enable flag 1 (rule R66). -/
def frameCQ1 (header : Byte) : List Byte := [header, 0x01]

/-- An operation that ends `OK` and leaves the mirror alone (rules R92, R94, R95, R99). -/
def State.emitted (s : State) (bytes : List Byte) : EncoderResult := { status := .ok, bytes := bytes, dout := s.dout }

/-- `raise OOB` in a host operation: status `OOB`, nothing emitted, nothing changed (rules R134, R141). -/
def State.outOfBounds (s : State) : EncoderResult := { status := .oob, bytes := [], dout := s.dout }

/-- What `pinMode(pin, mode)` comes to (rule R92). -/
def pinModeResult (s : State) (pin mode : Byte) : EncoderResult := s.emitted (framePM pin mode)

/-- What `digitalWrite(pin, value)` comes to (rule R93). -/
def digitalWriteResult (s : State) (pin : Byte) (value : BitVec 1) : EncoderResult :=
  if pinOutOfRange s.cfg pin then s.outOfBounds
  else
    let m := writeBit (getReg s.dout (pinReg pin)) (pinBit pin) value
    { status := .ok, bytes := frameCQ2 (0x90 ||| (pin >>> 3)) m, dout := setReg s.dout (pinReg pin) m }

/-- What `analogWrite(pin, value)` comes to (rule R94). -/
def analogWriteResult (s : State) (pin value : Byte) : EncoderResult :=
  s.emitted (framePM pin s.cfg.modePwm ++ frameCQ2 (0xE0 ||| (pin &&& 0x0F)) value)

/-- What `requestReports()` comes to: the analog channels ascending, then the digital ports ascending (rules R10, R95). -/
def requestReportsResult (s : State) : EncoderResult :=
  s.emitted ((List.range nReportAnalog).flatMap (fun c => frameCQ1 (0xC0 ||| BitVec.ofNat 8 c)) ++
    (List.range nReportDigital).flatMap (fun p => frameCQ1 (0xD0 ||| BitVec.ofNat 8 p)))

/-- What the host operation with select code `op` comes to (rules R78, R91). -/
def encoderResult (s : State) (op : BitVec 2) (pin arg : Byte) : EncoderResult :=
  if op = 0 then pinModeResult s pin arg
  else if op = 1 then digitalWriteResult s pin (arg.setWidth 1)
  else if op = 2 then analogWriteResult s pin arg
  else requestReportsResult s

/-- A host operation taken as one atomic step: the new mirror, all its bytes on TX, its status (rule R91). -/
def State.complete (s : State) (r : EncoderResult) : State :=
  { s with dout := r.dout, tx := s.tx ++ r.bytes, statuses := s.statuses ++ [r.status] }

/-- A host operation accepted on the command port: the register update happens, the bytes wait for the Transport. An operation
with no byte to send ends at once (rule R91 (a), (b)). An offer while one is in progress is not accepted and changes
nothing (rules R45, R91). -/
def State.acceptOperation (s : State) (op : BitVec 2) (pin arg : Byte) : State :=
  if s.busy.isSome then s
  else
    let r := encoderResult s op pin arg
    if r.bytes = [] then s.complete r
    else { s with dout := r.dout, busy := some { bytes := r.bytes, status := r.status } }

/-- The Transport takes the next byte of the operation in progress; the operation ends with its status when the last byte is taken
(rules R44, R91 (c)). With no operation in progress there is no byte to take. -/
def State.takeByte (s : State) : State :=
  match s.busy with
  | none => s
  | some w =>
    match w.bytes with
    | [] => { s with busy := none, statuses := s.statuses ++ [w.status] }
    | [b] => { s with busy := none, tx := s.tx ++ [b], statuses := s.statuses ++ [w.status] }
    | b :: rest => { s with busy := some { w with bytes := rest }, tx := s.tx ++ [b] }

/-! ### The query port (rules R85 to R88) -/

/-- `return v`: status `OK` and data `v` (rule R14). -/
def returned (v : Value14) : Answer := { status := .ok, data := v }

/-- `raise OOB` in a query: status `OOB`, data 0 (rules R79, R134, R141). -/
def outOfBoundsAnswer : Answer := { status := .oob, data := 0 }

/-- The answer of `readDigitalPin(pin)`: the bit of `DIN`, never of `DOUT` (rule R85). -/
def digitalPinAnswer (s : State) (pin : Byte) : Answer :=
  if pinOutOfRange s.cfg pin then outOfBoundsAnswer else returned (pinValue (getReg s.din (pinReg pin)) pin)

/-- The answer of `readAnalogChannel(channel)` (rule R86). -/
def analogChannelAnswer (s : State) (channel : Byte) : Answer :=
  if channelOutOfRange s.cfg channel then outOfBoundsAnswer else returned (getReg s.ain (channelReg channel))

/-- The answer of `readVersion()`: `{VMAJ, VMIN}` (rule R87). -/
def versionAnswer (s : State) : Answer := returned (s.vmaj ++ s.vmin)

/-- The answer of an unassigned query: status `OK`, data 0 (rules R79, R88). -/
def unassignedAnswer : Answer := returned 0

/-- The answer of the query with select code `q`, from the current state alone (rules R79, R88). -/
def queryAnswer (s : State) (q : BitVec 2) (idx : Byte) : Answer :=
  if q = 0 then digitalPinAnswer s idx
  else if q = 1 then analogChannelAnswer s idx
  else if q = 2 then versionAnswer s
  else unassignedAnswer

/-- A query answered on the query port. Nothing else changes (rule R88). -/
def State.answer (s : State) (a : Answer) : State := { s with answers := s.answers ++ [a] }

/-! ### Reset (rules R147, R150) -/

/-- Reset of a running instance: every register at its value of rule R37 and any operation in progress ended where it stands; the
parameters stay (rule R147), and what the environment has received or has still to send is not the block's (rule R36). -/
def State.applyReset (s : State) : State :=
  { State.construct s.cfg with inputs := s.inputs, tx := s.tx, statuses := s.statuses, answers := s.answers }

end Sys2Proof.Machine
end

