-- ==== Sys2Proof/Machine/HostPorts.lean ====
section
/-! DEFINITION. The meanings of the host's operations and queries: contexts `cmd_port` and `query_port` of the opcode table (rules
R85 to R88, R91 to R95). An operation is one atomic step (rule R91). -/

namespace Sys2Proof.Machine

open Host (Outcome)

/-- pinMode (rule R92). -/
def execPinMode (pin mode : Byte) (s : State) : Outcome State Fault Refusal :=
  .next (s.complete (pinModeResult s pin mode))

/-- digitalWrite (rule R93). -/
def execDigitalWrite (pin : Byte) (value : BitVec 1) (s : State) : Outcome State Fault Refusal :=
  .next (s.complete (digitalWriteResult s pin value))

/-- analogWrite (rule R94). -/
def execAnalogWrite (pin value : Byte) (s : State) : Outcome State Fault Refusal :=
  .next (s.complete (analogWriteResult s pin value))

/-- requestReports (rule R95). -/
def execRequestReports (s : State) : Outcome State Fault Refusal :=
  .next (s.complete (requestReportsResult s))

/-- readDigitalPin (rule R85). -/
def execReadDigitalPin (pin : Byte) (s : State) : Outcome State Fault Refusal := .next (s.answer (digitalPinAnswer s pin))

/-- readAnalogChannel (rule R86). -/
def execReadAnalogChannel (channel : Byte) (s : State) : Outcome State Fault Refusal :=
  .next (s.answer (analogChannelAnswer s channel))

/-- readVersion (rule R87). -/
def execReadVersion (s : State) : Outcome State Fault Refusal := .next (s.answer (versionAnswer s))

/-- QUERY_UNASSIGNED (rules R79, R88). -/
def execQueryUnassigned (s : State) : Outcome State Fault Refusal := .next (s.answer unassignedAnswer)

end Sys2Proof.Machine
end

