-- ==== Sys2Proof/Machine/WireData.lean ====
section
/-! DEFINITION. The meanings of the bytes that steps 1 and 2 take, and of the micro-operations a completed frame runs: contexts
`wire_data`, `wire_sysex` and `dispatch` of the opcode table (rules R83, R84, R106, R107, R109). -/

namespace Sys2Proof.Machine

open Host (Outcome)

/-- DATA_BYTE: a data byte of the pending command, with the dispatch when it is the last (rules R107, R109). The decoder reads
this instruction only while `REM` is not 0 (rule R105). -/
def execDataByte (d : Data7) (s : State) : Outcome State Fault Refusal := .next (s.takeData (d.setWidth 8))

/-- END_SYSEX in sysex mode: `SYSEX <- 0; REM <- 0; CMD <- 0x00`, the payload left where it is (rules R106, R114). -/
def execEndSysexBlock (s : State) : Outcome State Fault Refusal := .next s.toIdle

/-- SYSEX_PAYLOAD: stored while `SXCNT` < 32; from then on dropped (rules R106, R123), or, under `SYSEX_OVERFLOW` = `FAULT`, a
fault (93_implementation_defined.md entry U1). -/
def execSysexPayload (b : Byte) (s : State) : Outcome State Fault Refusal :=
  if s.sxcnt.toNat < bufMax then .next (s.storePayload b)
  else match s.cfg.sysexOverflow with
    | .truncate => .next s
    | .fault => .fault .sysexOverflow

/-- setDigitalPort (rule R83). -/
def execSetDigitalPort (port : Index4) (value : Value14) (s : State) : Outcome State Fault Refusal :=
  .next (s.putDigitalPort port value)

/-- setAnalogChannel (rule R84). -/
def execSetAnalogChannel (channel : Index4) (value : Value14) (s : State) : Outcome State Fault Refusal :=
  .next (s.putAnalogChannel channel value)

/-- setVersion: `VMAJ <- BUF[1]; VMIN <- BUF[0]`, the two bytes given as operands (rules R109, R112). -/
def execSetVersion (major minor : Data7) (s : State) : Outcome State Fault Refusal :=
  .next (s.putVersion major minor)

end Sys2Proof.Machine
end

