-- ==== Sys2Proof/Machine/WireHeader.lean ====
section
/-! DEFINITION. The meanings of the received bytes that step 3 takes: context `wire_header` of the opcode table (rules R73, R108,
R110 to R120). A header the Decoder does not act on changes nothing: "accepted but produces no state change". -/

namespace Sys2Proof.Machine

open Host (Outcome)

/-- DATA_STRAY: a data-class byte with no command pending (rule R120). -/
def execDataStray (_d : Data7) (s : State) : Outcome State Fault Refusal := .next s

/-- UNASSIGNED_8n (rule R118). -/
def execUnassigned8n (_n : Index4) (s : State) : Outcome State Fault Refusal := .next s

/-- DIGITAL_MESSAGE header: `CMD <- 0x90; CHAN <- n; REM <- 2`, whatever was pending (rules R108, R110, R121). -/
def execDigitalMessage (n : Index4) (s : State) : Outcome State Fault Refusal := .next (s.awaitChannelData 0x90 n)

/-- UNASSIGNED_An (rule R118). -/
def execUnassignedAn (_n : Index4) (s : State) : Outcome State Fault Refusal := .next s

/-- UNASSIGNED_Bn (rule R118). -/
def execUnassignedBn (_n : Index4) (s : State) : Outcome State Fault Refusal := .next s

/-- REPORT_ANALOG, received (rule R115). -/
def execReportAnalog (_n : Index4) (s : State) : Outcome State Fault Refusal := .next s

/-- REPORT_DIGITAL, received (rule R116). -/
def execReportDigital (_n : Index4) (s : State) : Outcome State Fault Refusal := .next s

/-- ANALOG_MESSAGE header: `CMD <- 0xE0; CHAN <- n; REM <- 2`, whatever was pending (rules R108, R111, R121). -/
def execAnalogMessage (n : Index4) (s : State) : Outcome State Fault Refusal := .next (s.awaitChannelData 0xE0 n)

/-- START_SYSEX outside sysex mode: `SYSEX <- 1; SXCNT <- 0; REM <- 0; CMD <- 0x00` (rules R108, R113). -/
def execStartSysex (s : State) : Outcome State Fault Refusal := .next s.enterSysex

/-- UNASSIGNED_F1 (rule R118). -/
def execUnassignedF1 (s : State) : Outcome State Fault Refusal := .next s

/-- UNASSIGNED_F2_F3 (rule R118). -/
def execUnassignedF2F3 (_low : BitVec 1) (s : State) : Outcome State Fault Refusal := .next s

/-- SET_PIN_MODE, received (rule R117). -/
def execSetPinMode (s : State) : Outcome State Fault Refusal := .next s

/-- UNASSIGNED_F5 (rule R118). -/
def execUnassignedF5 (s : State) : Outcome State Fault Refusal := .next s

/-- UNASSIGNED_F6 (rule R118). -/
def execUnassignedF6 (s : State) : Outcome State Fault Refusal := .next s

/-- END_SYSEX outside sysex mode (rule R114). -/
def execEndSysex (s : State) : Outcome State Fault Refusal := .next s

/-- UNASSIGNED_F8 (rule R118). -/
def execUnassignedF8 (s : State) : Outcome State Fault Refusal := .next s

/-- REPORT_VERSION header: `CMD <- 0xF9; REM <- 2`; `CHAN` keeps its value (rules R108, R112). -/
def execReportVersion (s : State) : Outcome State Fault Refusal := .next (s.awaitData 0xF9)

/-- UNASSIGNED_FA_FB (rule R118). -/
def execUnassignedFAFB (_low : BitVec 1) (s : State) : Outcome State Fault Refusal := .next s

/-- UNASSIGNED_FC_FD (rule R118). -/
def execUnassignedFCFD (_low : BitVec 1) (s : State) : Outcome State Fault Refusal := .next s

/-- UNASSIGNED_FE (rule R118). -/
def execUnassignedFE (s : State) : Outcome State Fault Refusal := .next s

/-- SYSTEM_RESET, received: "not a reset of this block" (rules R119, R149). -/
def execSystemReset (s : State) : Outcome State Fault Refusal := .next s

end Sys2Proof.Machine
end

