-- ==== Sys2Proof/Machine/Dispatch.lean ====
section
/-! DEFINITION. What each instruction does: one arm per constructor of Instr, each one call of its meaning. -/

namespace Sys2Proof.Machine

def exec (i : Instr) (s : State) : Host.Outcome State Fault Refusal :=
  match i with
  | .dataStray d => Sys2Proof.Machine.execDataStray d s
  | .unassigned8n n => Sys2Proof.Machine.execUnassigned8n n s
  | .digitalMessage n => Sys2Proof.Machine.execDigitalMessage n s
  | .unassignedAn n => Sys2Proof.Machine.execUnassignedAn n s
  | .unassignedBn n => Sys2Proof.Machine.execUnassignedBn n s
  | .reportAnalog n => Sys2Proof.Machine.execReportAnalog n s
  | .reportDigital n => Sys2Proof.Machine.execReportDigital n s
  | .analogMessage n => Sys2Proof.Machine.execAnalogMessage n s
  | .startSysex => Sys2Proof.Machine.execStartSysex s
  | .unassignedF1 => Sys2Proof.Machine.execUnassignedF1 s
  | .unassignedF2F3 low => Sys2Proof.Machine.execUnassignedF2F3 low s
  | .setPinMode => Sys2Proof.Machine.execSetPinMode s
  | .unassignedF5 => Sys2Proof.Machine.execUnassignedF5 s
  | .unassignedF6 => Sys2Proof.Machine.execUnassignedF6 s
  | .endSysex => Sys2Proof.Machine.execEndSysex s
  | .unassignedF8 => Sys2Proof.Machine.execUnassignedF8 s
  | .reportVersion => Sys2Proof.Machine.execReportVersion s
  | .unassignedFAFB low => Sys2Proof.Machine.execUnassignedFAFB low s
  | .unassignedFCFD low => Sys2Proof.Machine.execUnassignedFCFD low s
  | .unassignedFE => Sys2Proof.Machine.execUnassignedFE s
  | .systemReset => Sys2Proof.Machine.execSystemReset s
  | .dataByte d => Sys2Proof.Machine.execDataByte d s
  | .endSysexBlock => Sys2Proof.Machine.execEndSysexBlock s
  | .sysexPayload b => Sys2Proof.Machine.execSysexPayload b s
  | .setDigitalPort port value => Sys2Proof.Machine.execSetDigitalPort port value s
  | .setAnalogChannel channel value => Sys2Proof.Machine.execSetAnalogChannel channel value s
  | .setVersion major minor => Sys2Proof.Machine.execSetVersion major minor s
  | .pinMode pin mode => Sys2Proof.Machine.execPinMode pin mode s
  | .digitalWrite pin value => Sys2Proof.Machine.execDigitalWrite pin value s
  | .analogWrite pin value => Sys2Proof.Machine.execAnalogWrite pin value s
  | .requestReports => Sys2Proof.Machine.execRequestReports s
  | .readDigitalPin pin => Sys2Proof.Machine.execReadDigitalPin pin s
  | .readAnalogChannel channel => Sys2Proof.Machine.execReadAnalogChannel channel s
  | .readVersion => Sys2Proof.Machine.execReadVersion s
  | .queryUnassigned => Sys2Proof.Machine.execQueryUnassigned s

end Sys2Proof.Machine
end

