-- ==== Sys2Proof/Machine/Ports.lean ====
section
/-! DEFINITION. What one input of the environment does: a transaction of a port (rules R43, R47, R48), the byte-by-byte form of a
host operation (rules R44, R45, R91), reset (rules R147, R150), and one clock edge of the signal-level binding (rule R49). -/

namespace Sys2Proof.Machine

open Host (Outcome)

/-- One transaction as one atomic step: the instruction it is, run. A host operation offered while one is in progress is not
accepted and changes nothing (rules R45, R91); the Decoder and the query port do not wait (rule R165). -/
def runTransaction (t : Transaction) (s : State) : Outcome State Fault Refusal :=
  match t with
  | .rx b => exec (decodeRx s.sysex s.rem b) s
  | .command op pin arg => if s.busy.isSome then .next s else exec (decodeCommand op pin arg) s
  | .query q idx => exec (decodeQuery q idx) s

/-- One rising edge of the signal-level binding (rule R49): reset wins; otherwise a TX byte is taken when one is offered and
`tx_ready` is 1, an operation is accepted when offered and none was in progress, and a Decoder step takes an offered byte.
These touch disjoint registers (rule R28), so their order inside the edge is not observable. -/
def clockEdge (p : PinsIn) (s : State) : Outcome State Fault Refusal :=
  if p.rst then .next s.applyReset
  else
    let taken := if p.txReady then s.takeByte else s
    let accepted := if p.cmdValid && s.busy.isNone then taken.acceptOperation p.cmdOp p.cmdPin p.cmdArg else taken
    if p.rxValid then runTransaction (.rx p.rxData) accepted else .next accepted

/-- `tx_valid` and `tx_data`: the byte offered to the Transport, if any (rule R49). -/
def txOffered (s : State) : Option Byte := s.busy.bind (fun w => w.bytes.head?)

/-- `cmd_ready`: low while an operation is emitting bytes (rule R49). -/
def cmdReady (s : State) : Bool := s.busy.isNone

/-- `cmd_done` and `cmd_status`: the status of the operation that the edge `p` ends, if it ends one (rule R49). -/
def cmdDone (p : PinsIn) (s : State) : Option Status :=
  if p.rst then none
  else match s.busy with
    | some w => if p.txReady && decide (w.bytes.length ≤ 1) then some w.status else none
    | none =>
      let r := encoderResult s p.cmdOp p.cmdPin p.cmdArg
      if p.cmdValid && r.bytes.isEmpty then some r.status else none

/-- `q_status` and `q_data`: the combinational answer from the current state (rule R49). -/
def queryPins (p : PinsIn) (s : State) : Answer := queryAnswer s p.qSel p.qIdx

/-- What one input does. -/
def runInput (i : Input) (s : State) : Outcome State Fault Refusal :=
  match i with
  | .port t => runTransaction t s
  | .accept op pin arg => .next (s.acceptOperation op pin arg)
  | .take => .next s.takeByte
  | .reset _lost => .next s.applyReset
  | .edge p => clockEdge p s

/-- The state in which the next step takes the transaction `t` as the instruction it is in `IDLE`: `t` first among the inputs, the
Decoder in `IDLE`, and the command port free. -/
def State.offerInIdle (s : State) (t : Transaction) : State :=
  { s.toIdle with busy := none, inputs := .port t :: s.inputs }

end Sys2Proof.Machine
end

