-- ==== Sys2Proof/Machine/Step.lean ====
section
/-! DEFINITION. One step of the machine: the first of the inputs still to come is taken. All steps of all agents form one total
order (rule R58); which order the environment brought about is the order of the list. -/

namespace Sys2Proof.Machine

/-- One step. With nothing offered nothing happens: "Nothing else in the block ever takes a step" (rule R3). -/
def step (s : State) : Host.Outcome State Fault Refusal :=
  match s.inputs with
  | [] => .next s
  | i :: rest => runInput i { s with inputs := rest }

/-- The state in which the next step runs the instruction of a number of spec/opcode_table.json (log entry 5). The block executes
no stored program (rule R31): an instruction is placed by making it the first input. -/
def State.withFetchWord (s : State) (nbits w : Nat) : State := s.offerInIdle (tableTransaction nbits w)

end Sys2Proof.Machine
end

