-- ==== Sys2Proof/Machine/Abstract.lean ====
section
/-! DEFINITION. Two smaller pictures of the Decoder that the spec gives beside its pseudocode, for claims to compare the machine
with: the named states of rule R33 with the transition table of rule R122, and the reduced machine of rule R128. Neither is
used by `step`. -/

namespace Sys2Proof.Machine

/-! ### The named states (rule R33) -/

/-- The Decoder's named states. `AWAITING_DATA` under `0xF9` has no channel argument (rule R33). -/
inductive Named where
  | idle
  | awaitingData (c : Byte) (ch : Option Index4) (r : BitVec 2)
  | sysex (n : BitVec 6)
deriving DecidableEq, Repr

/-- The named state that the session registers spell (rule R33). -/
def State.named (s : State) : Named :=
  if s.sysex then .sysex s.sxcnt
  else if s.rem = 0 then .idle
  else .awaitingData s.cmd (if s.cmd = 0xF9 then none else some s.chan) s.rem

/-- The rows of the table for a command-class byte outside sysex mode: `old` is the row "same" (rule R122). -/
def Named.afterCommand (old : Named) (b : Byte) : Named :=
  if 0x90 ≤ b ∧ b ≤ 0x9F then .awaitingData 0x90 (some (channelField b)) 2
  else if 0xE0 ≤ b ∧ b ≤ 0xEF then .awaitingData 0xE0 (some (channelField b)) 2
  else if b = 0xF9 then .awaitingData 0xF9 none 2
  else if b = 0xF0 then .sysex 0
  else old

/-- The column "next state" of the transition table (rule R122). -/
def Named.next (m : Named) (b : Byte) : Named :=
  match m with
  | .idle => if b ≤ 0x7F then .idle else Named.idle.afterCommand b
  | .awaitingData c ch r =>
    if b ≤ 0x7F then (if r = 2 then .awaitingData c ch 1 else .idle) else (Named.awaitingData c ch r).afterCommand b
  | .sysex k => if b = 0xF7 then .idle else if k < 32 then .sysex (k + 1) else .sysex k

/-! ### The reduced machine (rule R128) -/

/-- The pending command of the reduced machine: its channel is kept only where it means something. -/
inductive Wait where
  | digital (port : Index4)
  | analog (channel : Index4)
  | version
deriving DecidableEq, Repr

/-- The control state of the reduced machine: `IDLE`, `WAIT2`, `WAIT1`, `SX`. -/
inductive Control where
  | idle
  | wait2 (w : Wait)
  | wait1 (w : Wait) (first : Data7)
  | sx
deriving DecidableEq, Repr

/-- The reduced machine: its control state, the store, the version, and the sizes of the store. -/
structure Mini where
  nPorts : Nat
  kChannels : Nat
  control : Control
  din : Regs16 Byte
  ain : Regs16 Value14
  vmaj : Data7
  vmin : Data7
deriving DecidableEq, Repr

/-- A completed frame's write: the 14 bits are the two data bytes side by side (rules R50, R51, R65, R67). -/
def Mini.write (m : Mini) (w : Wait) (first second : Data7) : Mini :=
  match w with
  | .digital p => if p.toNat < m.nPorts then { m with din := setReg m.din p ((second ++ first).setWidth 8) } else m
  | .analog c => if c.toNat < m.kChannels then { m with ain := setReg m.ain c (second ++ first) } else m
  | .version => { m with vmaj := second, vmin := first }

/-- A byte taken as a header. -/
def Mini.header (m : Mini) (b : Byte) : Mini :=
  if 0x90 ≤ b ∧ b ≤ 0x9F then { m with control := .wait2 (.digital (channelField b)) }
  else if 0xE0 ≤ b ∧ b ≤ 0xEF then { m with control := .wait2 (.analog (channelField b)) }
  else if b = 0xF9 then { m with control := .wait2 .version }
  else if b = 0xF0 then { m with control := .sx }
  else m

/-- One received byte. -/
def Mini.step (m : Mini) (b : Byte) : Mini :=
  match m.control with
  | .sx => if b = 0xF7 then { m with control := .idle } else m
  | .idle => m.header b
  | .wait2 w => if b ≤ 0x7F then { m with control := .wait1 w (b.setWidth 7) } else m.header b
  | .wait1 w first =>
    if b ≤ 0x7F then { m.write w first (b.setWidth 7) with control := .idle } else m.header b

/-- The pending command that the registers `CMD` and `CHAN` spell. -/
def State.wait (s : State) : Wait :=
  if s.cmd = 0x90 then .digital s.chan else if s.cmd = 0xE0 then .analog s.chan else .version

/-- What the reduced machine keeps of a state (rule R128: `WAIT2` for `REM` = 2, `WAIT1` for `REM` = 1 carrying `BUF[0]`, `SX` for
every `SYSEX(k)`). -/
def State.mini (s : State) : Mini :=
  { nPorts := s.cfg.nPorts, kChannels := s.cfg.kChannels
    control :=
      if s.sysex then .sx
      else if s.rem = 0 then .idle
      else if s.rem = 1 then .wait1 s.wait (s.buf[0].setWidth 7)
      else .wait2 s.wait
    din := s.din, ain := s.ain, vmaj := s.vmaj, vmin := s.vmin }

end Sys2Proof.Machine
end

