-- ==== Sys2Proof/Safety.lean ====
section
/-! DEFINITION. The terms claims are stated in: the invariant of rule R32, what "unchanged" means for each owner's registers
(rules R28, R144), runs over a list of inputs, and which states no future input can tell apart (rule R35). -/

namespace Sys2Proof.Machine

open Host (Outcome)

/-! ### The invariant (rule R32) -/

/-- I1 to I5 and the first half of I7 of rule R32: the Decoder session is one of the named states of rule R33. (I6 is the widths
of the registers' types.) -/
abbrev State.SessionInv (s : State) : Prop :=
  s.rem ≠ 3 ∧
  (s.cmd = 0x00 ∨ s.cmd = 0x90 ∨ s.cmd = 0xE0 ∨ s.cmd = 0xF9) ∧
  (s.rem = 0 ↔ s.cmd = 0x00) ∧
  (s.sysex = true → s.rem = 0 ∧ s.cmd = 0x00) ∧
  s.sxcnt ≤ 32 ∧
  (s.rem = 1 → s.buf[0] < 0x80)

/-- A register of a port or channel that does not exist holds 0, so equal machines are equal data (rules R6, R7, R17). -/
abbrev State.AbsentRegsZero (s : State) : Prop :=
  (∀ p : Index4, s.cfg.nPorts ≤ p.toNat → getReg s.din p = 0 ∧ getReg s.dout p = 0) ∧
  (∀ c : Index4, s.cfg.kChannels ≤ c.toNat → getReg s.ain c = 0)

/-- An operation in progress has a byte left to send and will end `OK` (rule R91: one that is out of range ends at once). -/
abbrev State.BusyInv (s : State) : Prop := ∀ w ∈ s.busy, w.bytes ≠ [] ∧ w.status = .ok

/-- The invariant of the machine: legal parameters, and the three parts above. -/
abbrev State.Inv (s : State) : Prop :=
  s.cfg.wf = true ∧ s.SessionInv ∧ s.AbsentRegsZero ∧ s.BusyInv

/-! ### What stays unchanged -/

/-- The Pin State Store and the version (rules R18 to R20). -/
abbrev SameStore (s t : State) : Prop := t.din = s.din ∧ t.ain = s.ain ∧ t.vmaj = s.vmaj ∧ t.vmin = s.vmin

/-- The Decoder session (rules R22 to R27). -/
abbrev SameSession (s t : State) : Prop :=
  t.cmd = s.cmd ∧ t.chan = s.chan ∧ t.rem = s.rem ∧ t.buf = s.buf ∧ t.sysex = s.sysex ∧ t.sxcnt = s.sxcnt

/-- The Encoder's mirror and the operation in progress (rules R21, R91). -/
abbrev SameEncoder (s t : State) : Prop := t.dout = s.dout ∧ t.busy = s.busy

/-- What has left the command port and the TX stream (rules R44, R47). -/
abbrev SameSent (s t : State) : Prop := t.tx = s.tx ∧ t.statuses = s.statuses

/-- What has left the query port (rule R48). -/
abbrev SameAnswers (s t : State) : Prop := t.answers = s.answers

/-- The parameters and the inputs still to come (rules R36, R43). -/
abbrev SameOutside (s t : State) : Prop := t.cfg = s.cfg ∧ t.inputs = s.inputs

/-! ### Runs -/

/-- The environment does `i` next. -/
def State.offer (s : State) (i : Input) : State := { s with inputs := i :: s.inputs }

/-- A list of inputs, one step each, in order; the first fault or refusal ends the run. -/
def feed : List Input → State → Outcome State Fault Refusal
  | [], s => .next s
  | i :: rest, s =>
    match step (s.offer i) with
    | .next t => feed rest t
    | .fault r => .fault r
    | .refused r => .refused r

/-- `RX: b1 b2 ...`: the bytes delivered to the Decoder in that order (rule R80). -/
def feedRx (bs : List Byte) (s : State) : Outcome State Fault Refusal := feed (bs.map (fun b => .port (.rx b))) s

/-- Under the default `TRUNCATE` a sysex block of any length runs (rule R123, 93_implementation_defined.md entry U1). -/
abbrev State.Truncates (s : State) : Prop := s.cfg.sysexOverflow = .truncate

/-! ### Indistinguishable states (rule R35) -/

/-- What the host and the wire have seen, and what the host can read: all that is observable (rule R35). -/
abbrev SameObservable (s t : State) : Prop := SameStore s t ∧ SameSent s t ∧ SameAnswers s t

/-- Two states that agree on everything but what rule R35 calls unobservable: "on `SYSEX`, `REM`, `CMD`, on `CHAN` when `CMD` is
`0x90` or `0xE0`, and on `BUF[0]` when `REM` = 1". -/
abbrev Agree (s t : State) : Prop :=
  t.cfg = s.cfg ∧ SameEncoder s t ∧ SameObservable s t ∧
  t.sysex = s.sysex ∧ t.rem = s.rem ∧ t.cmd = s.cmd ∧
  ((s.cmd = 0x90 ∨ s.cmd = 0xE0) → t.chan = s.chan) ∧
  (s.rem = 1 → t.buf[0] = s.buf[0])

end Sys2Proof.Machine
end

