-- ==== Sys2Proof/Certificates/Slice0/Obligations.lean ====
section
/-! DEFINITION. The statements for the provers. Each docstring names the rule of spec/ that the statement formalises. `exec i s = .next t`
with `t` written out as an update of `s` says the whole frame of the instruction: every field not named is as it was. -/

open Sys2Proof Sys2Proof.Machine

/-! ### Encoding -/

/-- The complete header map (rule R73): which instruction each of the 256 values of a byte taken by step 3 is. -/
def Obligations.HeaderMapFollowsRule73 : Prop :=
  ∀ b : Byte,
    (b.toNat ≤ 0x7F → decodeHeader b = .dataStray (b.setWidth 7)) ∧
    (0x80 ≤ b.toNat ∧ b.toNat ≤ 0x8F → decodeHeader b = .unassigned8n (BitVec.ofNat 4 (b.toNat - 0x80))) ∧
    (0x90 ≤ b.toNat ∧ b.toNat ≤ 0x9F → decodeHeader b = .digitalMessage (BitVec.ofNat 4 (b.toNat - 0x90))) ∧
    (0xA0 ≤ b.toNat ∧ b.toNat ≤ 0xAF → decodeHeader b = .unassignedAn (BitVec.ofNat 4 (b.toNat - 0xA0))) ∧
    (0xB0 ≤ b.toNat ∧ b.toNat ≤ 0xBF → decodeHeader b = .unassignedBn (BitVec.ofNat 4 (b.toNat - 0xB0))) ∧
    (0xC0 ≤ b.toNat ∧ b.toNat ≤ 0xCF → decodeHeader b = .reportAnalog (BitVec.ofNat 4 (b.toNat - 0xC0))) ∧
    (0xD0 ≤ b.toNat ∧ b.toNat ≤ 0xDF → decodeHeader b = .reportDigital (BitVec.ofNat 4 (b.toNat - 0xD0))) ∧
    (0xE0 ≤ b.toNat ∧ b.toNat ≤ 0xEF → decodeHeader b = .analogMessage (BitVec.ofNat 4 (b.toNat - 0xE0))) ∧
    (b = 0xF0 → decodeHeader b = .startSysex) ∧
    (b = 0xF1 → decodeHeader b = .unassignedF1) ∧
    (b = 0xF2 ∨ b = 0xF3 → decodeHeader b = .unassignedF2F3 (BitVec.ofNat 1 (b.toNat - 0xF2))) ∧
    (b = 0xF4 → decodeHeader b = .setPinMode) ∧
    (b = 0xF5 → decodeHeader b = .unassignedF5) ∧
    (b = 0xF6 → decodeHeader b = .unassignedF6) ∧
    (b = 0xF7 → decodeHeader b = .endSysex) ∧
    (b = 0xF8 → decodeHeader b = .unassignedF8) ∧
    (b = 0xF9 → decodeHeader b = .reportVersion) ∧
    (b = 0xFA ∨ b = 0xFB → decodeHeader b = .unassignedFAFB (BitVec.ofNat 1 (b.toNat - 0xFA))) ∧
    (b = 0xFC ∨ b = 0xFD → decodeHeader b = .unassignedFCFD (BitVec.ofNat 1 (b.toNat - 0xFC))) ∧
    (b = 0xFE → decodeHeader b = .unassignedFE) ∧
    (b = 0xFF → decodeHeader b = .systemReset)

/-- The 21 header rows of the opcode table partition the 256 byte values (rule R82), and the decoder reads them: of a byte taken as a
header, the one row it belongs to is the row of the instruction that `decodeHeader` gives; and every row is the row of what its `match`
decodes to. -/
def Obligations.HeaderRowsPartitionTheBytes : Prop :=
  headerRows.length = 21 ∧
  (∀ b : Byte, (tableRow (decodeHeader b)).1 = .wireHeader ∧
    headerRows.filter (fun row => b &&& row.2 = row.1) = [(tableRow (decodeHeader b)).2]) ∧
  (∀ row ∈ headerRows, (tableRow (decodeHeader row.1)).2 = row)

/-- The arm of the Decoder step (rule R105): sysex mode first, then pending data, then header; and in every case the byte is an
instruction of the context that arm reads. -/
def Obligations.ReceivedByteIsTakenByOneArm : Prop :=
  ∀ (sysex : Bool) (rem : BitVec 2) (b : Byte),
    (sysex = true → rxSpace sysex rem b = .sysex) ∧
    (sysex = false → rem ≠ 0 → b.toNat < 128 → rxSpace sysex rem b = .data) ∧
    (sysex = false → (rem = 0 ∨ 128 ≤ b.toNat) → rxSpace sysex rem b = .header) ∧
    decode (.wire (rxSpace sysex rem b) b) = .ok (decodeRx sysex rem b)

/-- Decoding the encoding of a well-formed instruction gives it back, for every instruction and every operand. -/
def Obligations.DecodeOfEncodeIsTheInstruction : Prop :=
  ∀ i : Instr, i.wf = true → decode (encode i) = .ok i

/-- A received byte has one meaning in its context: what it decodes to is well formed and encodes to that byte again. -/
def Obligations.EncodeOfDecodedByteIsTheByte : Prop :=
  ∀ (space : Space) (b : Byte) (i : Instr),
    decode (.wire space b) = .ok i → i.wf = true ∧ encode i = .wire space b

/-- The select codes of the command port and of the query port, and the operands each uses. The codes and the one-bit value of
`digitalWrite` are the spec's decisions D18 and D15 (rules R78, R79). -/
def Obligations.SelectCodesOfThePorts : Prop :=
  ∀ pin arg idx : Byte,
    decodeCommand 0 pin arg = .pinMode pin arg ∧
    decodeCommand 1 pin arg = .digitalWrite pin (arg.extractLsb' 0 1) ∧
    decodeCommand 2 pin arg = .analogWrite pin arg ∧
    decodeCommand 3 pin arg = .requestReports ∧
    decodeQuery 0 idx = .readDigitalPin idx ∧
    decodeQuery 1 idx = .readAnalogChannel idx ∧
    decodeQuery 2 idx = .readVersion ∧
    decodeQuery 3 idx = .queryUnassigned

/-- A few words written out from the frame formats of 30_encoding.md section 3, bit 7 first. -/
def Obligations.WordsOfTheFrameFormats : Prop :=
  decode (.wire .header 0b10010001) = .ok (.digitalMessage 1) ∧
  decode (.wire .header 0b11100011) = .ok (.analogMessage 3) ∧
  decode (.wire .header 0b11111001) = .ok .reportVersion ∧
  decode (.wire .header 0b11110000) = .ok .startSysex ∧
  decode (.wire .sysex 0b11110111) = .ok .endSysexBlock ∧
  decode (.wire .sysex 0b11110000) = .ok (.sysexPayload 0b11110000) ∧
  decode (.wire .data 0b01111111) = .ok (.dataByte 0b1111111) ∧
  decode (.dispatch 0b11100000 3 0b01111111 0b00000011) = .ok (.setAnalogChannel 3 511)

/-- Splitting and assembling are inverse (rule R102): for every 14-bit value, and for every pair of data bytes. -/
def Obligations.SplitAndAssembleAreInverse : Prop :=
  (∀ v : Value14, (splitLow v).toNat = v.toNat % 128 ∧ (splitHigh v).toNat = v.toNat / 128 ∧
    assemble (splitLow v) (splitHigh v) = v) ∧
  (∀ lo hi : Byte, lo.toNat < 128 → hi.toNat < 128 →
    (assemble lo hi).toNat = lo.toNat + 128 * hi.toNat ∧
    splitLow (assemble lo hi) = lo ∧ splitHigh (assemble lo hi) = hi)

/-! ### The step -/

/-- A step runs the decoded instruction: when the first input is a transaction that is taken (an operation, only while none is in
progress: rule R91), the step is `exec` of the instruction it decodes to, on the state without that input. -/
def Obligations.StepRunsTheDecodedInstruction : Prop :=
  ∀ (s : State) (tr : Transaction) (rest : List Input),
    s.inputs = .port tr :: rest → (s.busy = none ∨ ∀ op pin arg, tr ≠ .command op pin arg) →
    step s = exec (decodeTransaction s.sysex s.rem tr) { s with inputs := rest }

/-- With nothing offered the block takes no step of its own (rule R3): the state stays as it is. That the model answers this state,
and does not stop, is the model's choice (log entry 4). -/
def Obligations.NothingOfferedChangesNothing : Prop :=
  ∀ s : State, s.inputs = [] → step s = .next s

/-- An operation offered while one is in progress is not accepted (rule R91): it changes nothing, and the one in progress goes on.
That such an offer is gone, and not held until the port is free, is the model's choice (log entry 3). -/
def Obligations.BusyCommandPortAcceptsNothing : Prop :=
  ∀ (s : State) (w : Busy) (op : BitVec 2) (pin arg : Byte) (rest : List Input),
    s.busy = some w →
    (s.inputs = .port (.command op pin arg) :: rest ∨ s.inputs = .accept op pin arg :: rest) →
    step s = .next { s with inputs := rest }

/-- `withFetchWord` places the instruction that `decodeTableWord` reads, and the next step runs it (log entry 5). -/
def Obligations.PlacedTableWordRunsNext : Prop :=
  ∀ (s : State) (nbits w : Nat) (i : Instr),
    decodeTableWord nbits w = some i →
    step (s.withFetchWord nbits w) = exec i { s with sysex := false, rem := 0, cmd := 0x00, busy := none }

/-- No step is ever refused; a step faults only at a sysex payload byte beyond the buffer in an instance whose parameter asks for
a fault there; and in every other instance every step, from every state, answers a next state (rules R15, R74, R105). -/
def Obligations.OnlyTheOverflowParameterStopsAStep : Prop :=
  (∀ s : State, s.Truncates → ∃ t, step s = .next t) ∧
  (∀ (s : State) (r : Refusal), step s ≠ .refused r) ∧
  (∀ (s : State) (r : Fault), step s = .fault r → r = .sysexOverflow ∧ s.cfg.sysexOverflow = .fault ∧
    s.sysex = true ∧ 32 ≤ s.sxcnt.toNat)

/-! ### Reset -/

/-- The values after reset, at the default parameters (rule R37). `IDLE` is the document's; the zeros of the other registers are the
spec's decision D10. -/
def Obligations.ResetValues : Prop :=
  State.reset.sysex = false ∧ State.reset.rem = 0 ∧ State.reset.cmd = 0x00 ∧ State.reset.chan = 0 ∧ State.reset.sxcnt = 0 ∧
  (∀ (i : Nat) (h : i < 32), State.reset.buf[i] = 0x00) ∧
  (∀ p : Index4, getReg State.reset.din p = 0x00 ∧ getReg State.reset.dout p = 0x00) ∧
  (∀ c : Index4, getReg State.reset.ain c = 0) ∧
  State.reset.vmaj = 0 ∧ State.reset.vmin = 0

/-- Reset puts every register at its value of rule R37, leaves the parameters alone, wins over what coincides with it, and ends an
operation in progress where it stands. The zeros are the spec's decision D10, the reset itself its decision D23 (rules R147, R150). -/
def Obligations.ResetPutsEveryRegisterAtItsResetValue : Prop :=
  ∀ (s : State) (lost : List Transaction) (rest : List Input),
    s.inputs = .reset lost :: rest →
    ∃ t, step s = .next t ∧
      t.sysex = false ∧ t.rem = 0 ∧ t.cmd = 0x00 ∧ t.chan = 0 ∧ t.sxcnt = 0 ∧
      (∀ (i : Nat) (h : i < 32), t.buf[i] = 0x00) ∧
      (∀ p : Index4, getReg t.din p = 0x00 ∧ getReg t.dout p = 0x00) ∧ (∀ c : Index4, getReg t.ain c = 0) ∧
      t.vmaj = 0 ∧ t.vmin = 0 ∧ t.busy = none ∧ t.cfg = s.cfg ∧ t.inputs = rest ∧ SameSent s t ∧ SameAnswers s t

/-- The invariant holds at reset. Its parts about absent cells and about an operation in progress are the model's (log entries 12 and
10); the zeros are the spec's decision D10 (log entry 6). -/
def Obligations.ResetStateMeetsTheInvariant : Prop := State.reset.Inv

/-- Every step keeps the invariant: the session stays in one of the named states (rule R32); the cells of ports and channels that a
smaller instance does not have stay zero (the model's choice, log entry 12); and an operation in progress has a byte left to send and will
end `OK` (the model's form of an operation, log entry 10). And no step, a reset among them, changes the parameters (rules R36, R147). -/
def Obligations.EveryStepKeepsTheInvariant : Prop :=
  ∀ s t : State, step s = .next t → t.cfg = s.cfg ∧ (s.Inv → t.Inv)

/-! ### The Decoder -/

/-- `Step1` (rule R106), for every byte in sysex mode, in an instance that truncates. That a byte at offset 32 or more is dropped is the
spec's decision D6 (rule R123; log entry 8). -/
def Obligations.SysexModeFollowsStep1 : Prop :=
  ∀ (s : State) (b : Byte), s.sysex = true → s.Truncates →
    (b = 0xF7 → exec (decodeRx s.sysex s.rem b) s = .next { s with sysex := false, rem := 0, cmd := 0x00 }) ∧
    (∀ _ : b ≠ 0xF7, ∀ h : s.sxcnt.toNat < 32, exec (decodeRx s.sysex s.rem b) s =
      .next { s with buf := s.buf.set s.sxcnt.toNat b, sxcnt := s.sxcnt + 1 }) ∧
    (b ≠ 0xF7 → 32 ≤ s.sxcnt.toNat → exec (decodeRx s.sysex s.rem b) s = .next s)

/-- The parameter value `FAULT` of 93_implementation_defined.md entry U1: the payload byte at offset 32 stops the machine; at a
lower offset it is stored as ever. -/
def Obligations.SysexOverflowParameterFaults : Prop :=
  ∀ (s : State) (b : Byte), s.cfg.sysexOverflow = .fault →
    (32 ≤ s.sxcnt.toNat → exec (.sysexPayload b) s = .fault .sysexOverflow) ∧
    (∀ h : s.sxcnt.toNat < 32, exec (.sysexPayload b) s =
      .next { s with buf := s.buf.set s.sxcnt.toNat b, sxcnt := s.sxcnt + 1 })

/-- `Step2` with `Dispatch` (rules R107, R109): a data byte of a pending command. The first goes to `BUF[0]`; the second goes to
`BUF[1]` and writes what `CMD` selects. Keeping the low 8 bits of a digital value, and dropping a write to a port or channel without a
register, are the spec's decisions D11 and D13 (rules R83, R84; log entry 14); all 14 bits of an analog value are its decision D12; that
`BUF[0]` is narrowed to the 7 bits of `VMIN` is the model's, log entry 7. -/
def Obligations.PendingDataFollowsStep2 : Prop :=
  ∀ (s : State) (b : Byte), s.sysex = false → b.toNat < 128 →
    (s.rem = 2 → exec (decodeRx s.sysex s.rem b) s = .next { s with buf := s.buf.set 0 b, rem := 1 }) ∧
    (s.rem = 1 → ∃ t, exec (decodeRx s.sysex s.rem b) s = .next t ∧
      t.buf = s.buf.set 1 b ∧ t.rem = 0 ∧ t.cmd = 0x00 ∧ t.chan = s.chan ∧ t.sysex = false ∧ t.sxcnt = s.sxcnt ∧
      SameEncoder s t ∧ SameSent s t ∧ SameAnswers s t ∧ SameOutside s t ∧
      (s.cmd = 0x90 → t.ain = s.ain ∧ t.vmaj = s.vmaj ∧ t.vmin = s.vmin ∧
        ∀ p : Index4, getReg t.din p =
          if p = s.chan ∧ p.toNat < s.cfg.nPorts then BitVec.ofNat 8 (s.buf[0].toNat + 128 * b.toNat) else getReg s.din p) ∧
      (s.cmd = 0xE0 → t.din = s.din ∧ t.vmaj = s.vmaj ∧ t.vmin = s.vmin ∧
        ∀ c : Index4, getReg t.ain c =
          if c = s.chan ∧ c.toNat < s.cfg.kChannels then BitVec.ofNat 14 (s.buf[0].toNat + 128 * b.toNat) else getReg s.ain c) ∧
      (s.cmd = 0xF9 → t.din = s.din ∧ t.ain = s.ain ∧ t.vmaj = b.setWidth 7 ∧ t.vmin = s.buf[0].setWidth 7))

/-- `Step3` (rule R108), for every byte it takes (rule R105): headers of the three multi-byte commands, `START_SYSEX`, and all the
rest, which change nothing. That `START_SYSEX` clears `REM` and `CMD`, and that `0xF9` leaves `CHAN`, are the spec's decisions D9 and D8. -/
def Obligations.HeaderFollowsStep3 : Prop :=
  ∀ (s : State) (b : Byte), s.sysex = false → (s.rem = 0 ∨ 128 ≤ b.toNat) →
    (b = 0xF0 → exec (decodeRx s.sysex s.rem b) s = .next { s with sysex := true, sxcnt := 0, rem := 0, cmd := 0x00 }) ∧
    (b &&& 0xF0 = 0x90 → exec (decodeRx s.sysex s.rem b) s =
      .next { s with cmd := 0x90, chan := (b &&& 0x0F).setWidth 4, rem := 2 }) ∧
    (b &&& 0xF0 = 0xE0 → exec (decodeRx s.sysex s.rem b) s =
      .next { s with cmd := 0xE0, chan := (b &&& 0x0F).setWidth 4, rem := 2 }) ∧
    (b = 0xF9 → exec (decodeRx s.sysex s.rem b) s = .next { s with cmd := 0xF9, rem := 2 }) ∧
    (b ≠ 0xF0 → b &&& 0xF0 ≠ 0x90 → b &&& 0xF0 ≠ 0xE0 → b ≠ 0xF9 → exec (decodeRx s.sysex s.rem b) s = .next s)

/-- The headers the Decoder acts on, as instructions: what each writes, in every state (rule R108, with the spec's decisions D8 and
D9). -/
def Obligations.ActingHeadersWriteTheSession : Prop :=
  ∀ (s : State) (n : Index4),
    exec (.digitalMessage n) s = .next { s with cmd := 0x90, chan := n, rem := 2 } ∧
    exec (.analogMessage n) s = .next { s with cmd := 0xE0, chan := n, rem := 2 } ∧
    exec .reportVersion s = .next { s with cmd := 0xF9, rem := 2 } ∧
    exec .startSysex s = .next { s with sysex := true, sxcnt := 0, rem := 0, cmd := 0x00 }

/-- The headers the Decoder does not act on, as instructions: no register changes, in every state (rules R115 to R120, R132). -/
def Obligations.IgnoredHeadersChangeNothing : Prop :=
  ∀ (s : State) (d : Data7) (n : Index4) (x : BitVec 1),
    exec (.dataStray d) s = .next s ∧ exec (.unassigned8n n) s = .next s ∧ exec (.unassignedAn n) s = .next s ∧
    exec (.unassignedBn n) s = .next s ∧ exec (.reportAnalog n) s = .next s ∧ exec (.reportDigital n) s = .next s ∧
    exec .unassignedF1 s = .next s ∧ exec (.unassignedF2F3 x) s = .next s ∧ exec .setPinMode s = .next s ∧
    exec .unassignedF5 s = .next s ∧ exec .unassignedF6 s = .next s ∧ exec .endSysex s = .next s ∧
    exec .unassignedF8 s = .next s ∧ exec (.unassignedFAFB x) s = .next s ∧ exec (.unassignedFCFD x) s = .next s ∧
    exec .unassignedFE s = .next s ∧ exec .systemReset s = .next s

/-- The bytes taken in sysex mode and the data bytes, as instructions, complete: the end of a block in every state, leaving `BUF` and
`SXCNT` as they are; a payload byte in every state of an instance that truncates; a data byte while one or two are expected. What else
each leaves alone is named (rules R106, R107, R114; truncation is the spec's decision D6). -/
def Obligations.SessionBytesComplete : Prop :=
  ∀ (s : State) (d : Data7) (b : Byte),
    exec .endSysexBlock s = .next { s with sysex := false, rem := 0, cmd := 0x00 } ∧
    (s.Truncates → ∃ t, exec (.sysexPayload b) s = .next t ∧ SameStore s t ∧ SameEncoder s t ∧ SameSent s t ∧
      SameAnswers s t ∧ SameOutside s t ∧ t.cmd = s.cmd ∧ t.rem = s.rem ∧ t.chan = s.chan ∧ t.sysex = s.sysex) ∧
    (s.rem = 1 ∨ s.rem = 2 → ∃ t, exec (.dataByte d) s = .next t ∧ t.rem = s.rem - 1 ∧
      SameEncoder s t ∧ SameSent s t ∧ SameAnswers s t ∧ SameOutside s t ∧ t.chan = s.chan ∧ t.sysex = s.sysex ∧
      t.sxcnt = s.sxcnt)

/-- The byte `0xFF` resets nothing: outside sysex mode it changes nothing, and in sysex mode it is a payload byte
(rules R119, R149). -/
def Obligations.ReceivedSystemResetResetsNothing : Prop :=
  ∀ s : State,
    (s.sysex = false → exec (decodeRx s.sysex s.rem 0xFF) s = .next s) ∧
    (s.sysex = true → decodeRx s.sysex s.rem 0xFF = .sysexPayload 0xFF)

/-- A whole `DIGITAL_MESSAGE` frame, from any state outside sysex mode, whatever was pending (rules R110, R121): nothing in the
store changes before the second data byte, which replaces all eight pins of the port. Keeping 8 of the 14 bits and dropping a write to a
port without a register are the spec's decisions D11 and D13. -/
def Obligations.DigitalMessageFrameWritesThePort : Prop :=
  ∀ (s : State) (n : Index4) (d1 d2 : Byte), s.sysex = false → d1.toNat < 128 → d2.toNat < 128 →
    (∃ u, feedRx [headerCQ 0x90 n, d1] s = .next u ∧ SameStore s u ∧ SameEncoder s u) ∧
    (∃ t, feedRx [headerCQ 0x90 n, d1, d2] s = .next t ∧
      (∀ p : Index4, getReg t.din p =
        if p = n ∧ p.toNat < s.cfg.nPorts then BitVec.ofNat 8 (d1.toNat + 128 * (d2.toNat % 2)) else getReg s.din p) ∧
      t.ain = s.ain ∧ t.vmaj = s.vmaj ∧ t.vmin = s.vmin ∧ SameEncoder s t ∧ SameSent s t ∧ SameAnswers s t ∧
      SameOutside s t ∧ t.isIdle = true ∧ t.cmd = 0x00)

/-- A whole `ANALOG_MESSAGE` frame, from any state outside sysex mode, whatever was pending (rules R111, R121): nothing in the store
changes before the second data byte, and all 14 bits are kept, with no clamp. Keeping them is the spec's decision D12, and dropping a
write to a channel without a register its decision D13. -/
def Obligations.AnalogMessageFrameWritesTheChannel : Prop :=
  ∀ (s : State) (n : Index4) (d1 d2 : Byte), s.sysex = false → d1.toNat < 128 → d2.toNat < 128 →
    (∃ u, feedRx [headerCQ 0xE0 n, d1] s = .next u ∧ SameStore s u ∧ SameEncoder s u) ∧
    (∃ t, feedRx [headerCQ 0xE0 n, d1, d2] s = .next t ∧
      (∀ c : Index4, (getReg t.ain c).toNat =
        if c = n ∧ c.toNat < s.cfg.kChannels then d1.toNat + 128 * d2.toNat else (getReg s.ain c).toNat) ∧
      t.din = s.din ∧ t.vmaj = s.vmaj ∧ t.vmin = s.vmin ∧ SameEncoder s t ∧ SameSent s t ∧ SameAnswers s t ∧
      SameOutside s t ∧ t.isIdle = true ∧ t.cmd = 0x00)

/-- A whole `REPORT_VERSION` frame, from any state outside sysex mode (rules R51, R112): the first data byte is the minor number, both
registers change in one step, and `CHAN` keeps its value. -/
def Obligations.ReportVersionFrameWritesBothNumbers : Prop :=
  ∀ (s : State) (d1 d2 : Byte), s.sysex = false → d1.toNat < 128 → d2.toNat < 128 →
    (∃ u, feedRx [0xF9, d1] s = .next u ∧ SameStore s u ∧ SameEncoder s u ∧ u.chan = s.chan) ∧
    (∃ t, feedRx [0xF9, d1, d2] s = .next t ∧ t.vmin.toNat = d1.toNat ∧ t.vmaj.toNat = d2.toNat ∧
      t.din = s.din ∧ t.ain = s.ain ∧ t.chan = s.chan ∧ SameEncoder s t ∧ SameSent s t ∧ SameAnswers s t ∧
      SameOutside s t ∧ t.isIdle = true ∧ t.cmd = 0x00)

/-- A command-class byte while a multi-byte command is pending (rule R121): (a) a multi-byte header replaces it and asks for two data
bytes, and the byte received for the old one stays in `BUF`; (b) `0xF0` enters sysex mode and abandons it (the spec's decision D9), and
after the block, whatever bytes it holds, nothing is pending; (c) any other keeps it. -/
def Obligations.CommandByteWhilePending : Prop :=
  ∀ (s : State) (b : Byte), s.sysex = false → (s.rem = 1 ∨ s.rem = 2) → 128 ≤ b.toNat →
    ((0x90 ≤ b.toNat ∧ b.toNat ≤ 0x9F) ∨ (0xE0 ≤ b.toNat ∧ b.toNat ≤ 0xEF) →
      exec (decodeRx s.sysex s.rem b) s =
        .next { s with cmd := b &&& 0xF0, chan := BitVec.ofNat 4 (b.toNat % 16), rem := 2 }) ∧
    (b = 0xF9 → exec (decodeRx s.sysex s.rem b) s = .next { s with cmd := 0xF9, rem := 2 }) ∧
    (b = 0xF0 → exec (decodeRx s.sysex s.rem b) s = .next { s with sysex := true, sxcnt := 0, rem := 0, cmd := 0x00 } ∧
      ∀ payload : List Byte, s.Truncates → (∀ x ∈ payload, x ≠ 0xF7) →
        ∃ t, feedRx (b :: payload ++ [0xF7]) s = .next t ∧ t.isIdle = true ∧ t.cmd = 0x00 ∧ SameStore s t) ∧
    ((b.toNat ≤ 0x8F ∨ (0xA0 ≤ b.toNat ∧ b.toNat ≤ 0xDF) ∨ (0xF1 ≤ b.toNat ∧ b.toNat ≠ 0xF9)) →
      exec (decodeRx s.sysex s.rem b) s = .next s)

/-- An ignored command byte between the data bytes of a frame changes nothing of what the frame comes to (rule R155). -/
def Obligations.IgnoredCommandInsideAFrameIsTransparent : Prop :=
  ∀ (s : State) (h d1 c d2 : Byte), s.sysex = false →
    ((0x90 ≤ h.toNat ∧ h.toNat ≤ 0x9F) ∨ (0xE0 ≤ h.toNat ∧ h.toNat ≤ 0xEF) ∨ h = 0xF9) →
    d1.toNat < 128 → d2.toNat < 128 → 128 ≤ c.toNat →
    ¬ (0x90 ≤ c.toNat ∧ c.toNat ≤ 0x9F) → ¬ (0xE0 ≤ c.toNat ∧ c.toNat ≤ 0xEF) → c ≠ 0xF9 → c ≠ 0xF0 →
    feedRx [h, d1, c, d2] s = feedRx [h, d1, d2] s ∧ feedRx [h, c, d1, d2] s = feedRx [h, d1, d2] s

/-- The column "next state" of the transition table, for every named state and every byte (rules R33, R122). -/
def Obligations.NamedStatesFollowTheTransitionTable : Prop :=
  ∀ (s t : State) (b : Byte), s.Inv → exec (decodeRx s.sysex s.rem b) s = .next t → t.named = s.named.next b

/-- The store and the version are written only by the step that takes the second data byte of a frame (rules R18, R19, R20, R122,
R144): any other transaction leaves them alone, in every state. -/
def Obligations.StoreIsWrittenOnlyByASecondDataByte : Prop :=
  ∀ (s t : State) (tr : Transaction) (rest : List Input),
    s.inputs = .port tr :: rest → step s = .next t → ¬ SameStore s t →
    ∃ b, tr = .rx b ∧ b.toNat < 128 ∧ s.sysex = false ∧ s.rem = 1 ∧ (s.cmd = 0x90 ∨ s.cmd = 0xE0 ∨ s.cmd = 0xF9)

/-- The Decoder emits nothing, answers nothing, and neither reads nor writes the Encoder's state (rules R28, R127, R165). -/
def Obligations.DecoderStepsStayApartFromTheEncoder : Prop :=
  ∀ (s t : State) (b : Byte) (d : Regs16 Byte) (w : Option Busy),
    exec (decodeRx s.sysex s.rem b) s = .next t →
    SameEncoder s t ∧ SameSent s t ∧ SameAnswers s t ∧ SameOutside s t ∧
    exec (decodeRx s.sysex s.rem b) { s with dout := d, busy := w } = .next { t with dout := d, busy := w }

/-- Sysex containment (rules R106, R124, R160), in an instance that truncates: from `0xF0` on, any bytes but `0xF7`, however many, leave
the Decoder in sysex mode and write nothing but `SXCNT` and `BUF`, which holds the first 32 of them; the next `0xF7` returns to `IDLE`
with no command pending, and the store and the version are as they were before the block. Truncation is the spec's decision D6. -/
def Obligations.SysexBlockIsContained : Prop :=
  ∀ (s : State) (payload : List Byte), s.Truncates → s.sysex = false → (∀ b ∈ payload, b ≠ 0xF7) →
    (∃ u, feedRx (0xF0 :: payload) s = .next u ∧ u.sysex = true ∧ SameStore s u ∧ SameEncoder s u ∧ SameSent s u ∧
      SameAnswers s u ∧ SameOutside s u ∧ u.chan = s.chan ∧ u.sxcnt.toNat = min payload.length 32 ∧
      ∀ (i : Nat) (h : i < 32), u.buf[i] = payload[i]?.getD s.buf[i]) ∧
    (∃ t, feedRx (0xF0 :: payload ++ [0xF7]) s = .next t ∧ t.isIdle = true ∧ t.cmd = 0x00 ∧ SameStore s t ∧ SameEncoder s t ∧
      SameSent s t ∧ SameAnswers s t ∧ SameOutside s t)

/-- Idempotence (rule R125): a byte sequence that takes the Decoder from `IDLE` back to `IDLE`, fed again, leaves the store, the
version, `BUF` and `SXCNT` as feeding it once left them. -/
def Obligations.CompleteCommandBytesAreIdempotent : Prop :=
  ∀ (s t : State) (bs : List Byte), s.isIdle = true → feedRx bs s = .next t → t.isIdle = true →
    ∃ u, feedRx bs t = .next u ∧ SameStore t u ∧ u.buf = t.buf ∧ u.sxcnt = t.sxcnt ∧ u.isIdle = true

/-- What rule R35 calls unobservable is so: two states that agree on the rest answer, send and read alike under every future list of
inputs. -/
def Obligations.AgreeingSessionsAreIndistinguishable : Prop :=
  ∀ (is : List Input) (s s' : State), s.Inv → s'.Inv → s.Truncates → Agree s s' →
    ∃ t t', feed is s = .next t ∧ feed is s' = .next t' ∧ SameObservable t t'

/-- The reduced machine of rule R128 "has the same store and version after every input sequence as the full machine". -/
def Obligations.DecoderRefinesTheReducedMachine : Prop :=
  ∀ (bs : List Byte) (s : State), s.Inv → s.Truncates →
    ∃ t, feedRx bs s = .next t ∧ t.mini = bs.foldl Mini.step s.mini

/-! ### The micro-operations -/

/-- `setDigitalPort` (rule R83): the port takes the low 8 bits and nothing else changes; a port without a register is a dropped write.
The two are the spec's decisions D11 and D13. -/
def Obligations.SetDigitalPortWritesLowEightBits : Prop :=
  ∀ (s : State) (port : Index4) (value : Value14),
    (port.toNat < s.cfg.nPorts → exec (.setDigitalPort port value) s = .next { s with din := setReg s.din port (value.extractLsb' 0 8) } ∧
      ∀ p : Index4, getReg (setReg s.din port (value.extractLsb' 0 8)) p =
        if p = port then value.extractLsb' 0 8 else getReg s.din p) ∧
    (s.cfg.nPorts ≤ port.toNat → exec (.setDigitalPort port value) s = .next s)

/-- `setAnalogChannel` (rule R84): the channel takes all 14 bits, with no clamp, and nothing else changes; a channel without a register is
a dropped write. The two are the spec's decisions D12 and D13. -/
def Obligations.SetAnalogChannelWritesAllBits : Prop :=
  ∀ (s : State) (channel : Index4) (value : Value14),
    (channel.toNat < s.cfg.kChannels → exec (.setAnalogChannel channel value) s = .next { s with ain := setReg s.ain channel value } ∧
      ∀ c : Index4, getReg (setReg s.ain channel value) c = if c = channel then value else getReg s.ain c) ∧
    (s.cfg.kChannels ≤ channel.toNat → exec (.setAnalogChannel channel value) s = .next s)

/-- `Dispatch` runs the micro-operation that `CMD` selects, on `CHAN`, `BUF[0]` and `BUF[1]`; where `CMD` selects none it writes
nothing; and the version micro-operation writes both halves at once and nothing else (rules R20, R109). -/
def Obligations.DispatchRunsTheSelectedMicroOperation : Prop :=
  ∀ s : State,
    (∀ i, decodeDispatch s.cmd s.chan s.buf[0] s.buf[1] = .ok i → exec i s = .next s.dispatch) ∧
    (∀ r, decodeDispatch s.cmd s.chan s.buf[0] s.buf[1] = .error r → s.dispatch = s) ∧
    (∀ major minor : Data7, exec (.setVersion major minor) s = .next { s with vmaj := major, vmin := minor })

/-! ### The Encoder -/

/-- `pinMode` (rule R92): three raw bytes, status `OK`, no register touched, `DOUT` included. -/
def Obligations.PinModeSendsThreeRawBytes : Prop :=
  ∀ (s : State) (pin mode : Byte),
    decodeCommand 0 pin mode = .pinMode pin mode ∧
    exec (.pinMode pin mode) s = .next { s with tx := s.tx ++ [0xF4, pin, mode], statuses := s.statuses ++ [.ok] }

/-- `digitalWrite` (rule R93): out of range, status `OOB` and nothing else (the spec's decision D14); in range, exactly the pin's bit of
the mirror is set or cleared, and the port's header and the mirrored byte, 7 low bits then 1 high bit, are sent whether or not the bit
changed. -/
def Obligations.DigitalWriteUpdatesTheMirrorAndSendsThePort : Prop :=
  ∀ (s : State) (pin : Byte) (value : BitVec 1), s.cfg.wf = true →
    (s.cfg.nPorts ≤ pin.toNat / 8 → exec (.digitalWrite pin value) s = .next { s with statuses := s.statuses ++ [.oob] }) ∧
    (pin.toNat / 8 < s.cfg.nPorts → ∃ t m, exec (.digitalWrite pin value) s = .next t ∧
      m = getReg t.dout (BitVec.ofNat 4 (pin.toNat / 8)) ∧
      t.tx = s.tx ++ [BitVec.ofNat 8 (0x90 + pin.toNat / 8), BitVec.ofNat 8 (m.toNat % 128), BitVec.ofNat 8 (m.toNat / 128)] ∧
      t.statuses = s.statuses ++ [.ok] ∧
      (∀ (p : Index4) (k : Nat), k < 8 → (getReg t.dout p).getLsbD k =
        if p.toNat = pin.toNat / 8 ∧ k = pin.toNat % 8 then value == 1 else (getReg s.dout p).getLsbD k) ∧
      t.busy = s.busy ∧ SameStore s t ∧ SameSession s t ∧ SameAnswers s t ∧ SameOutside s t)

/-- `analogWrite` (rule R94): the `SET_PIN_MODE` frame with the full pin and `MODE_PWM`, then the `ANALOG_MESSAGE` frame with `pin & 0x0F`
and the value split; status `OK`, no register touched. -/
def Obligations.AnalogWriteSendsTwoFrames : Prop :=
  ∀ (s : State) (pin value : Byte),
    decodeCommand 2 pin value = .analogWrite pin value ∧
    exec (.analogWrite pin value) s = .next { s with
      tx := s.tx ++ [0xF4, pin, s.cfg.modePwm, BitVec.ofNat 8 (0xE0 + pin.toNat % 16), BitVec.ofNat 8 (value.toNat % 128),
        BitVec.ofNat 8 (value.toNat / 128)]
      statuses := s.statuses ++ [.ok] }

/-- `requestReports` (rule R95), `op` = 3 with `pin` and `arg` ignored: sixteen bytes, whatever the sizes of the instance; status `OK`,
no register touched. -/
def Obligations.RequestReportsSendsSixteenBytes : Prop :=
  ∀ (s : State) (pin arg : Byte), decodeCommand 3 pin arg = .requestReports ∧ exec .requestReports s = .next { s with
    tx := s.tx ++ [0xC0, 0x01, 0xC1, 0x01, 0xC2, 0x01, 0xC3, 0x01, 0xC4, 0x01, 0xC5, 0x01, 0xD0, 0x01, 0xD1, 0x01]
    statuses := s.statuses ++ [.ok] }

/-- Byte counts and byte classes of the Encoder's output (rule R100). -/
def Obligations.EncoderByteCountsAndClasses : Prop :=
  ∀ (s : State) (pin arg : Byte),
    (∃ h, (encoderResult s 0 pin arg).bytes = [h, pin, arg] ∧ 128 ≤ h.toNat) ∧
    (s.cfg.nPorts ≤ pin.toNat / 8 → (encoderResult s 1 pin arg).bytes = []) ∧
    (pin.toNat / 8 < s.cfg.nPorts → ∃ h lo hi, (encoderResult s 1 pin arg).bytes = [h, lo, hi] ∧
      128 ≤ h.toNat ∧ lo.toNat < 128 ∧ hi.toNat ≤ 1) ∧
    (∃ h h' lo hi, (encoderResult s 2 pin arg).bytes = [h, pin, s.cfg.modePwm, h', lo, hi] ∧
      128 ≤ h.toNat ∧ 128 ≤ h'.toNat ∧ lo.toNat < 128 ∧ hi.toNat ≤ 1) ∧
    ((encoderResult s 3 pin arg).bytes.length = 16 ∧
      ∀ (i : Nat) (b : Byte), (encoderResult s 3 pin arg).bytes[i]? = some b →
        (i % 2 = 0 → 128 ≤ b.toNat) ∧ (i % 2 = 1 → b = 0x01))

/-- An Encoder operation touches the mirror, TX and its own status, and what it does depends on the mirror and the parameters alone
(rules R28, R96). -/
def Obligations.EncoderStepsStayApartFromTheDecoder : Prop :=
  ∀ (s : State) (op : BitVec 2) (pin arg : Byte),
    (∃ t, exec (decodeCommand op pin arg) s = .next t ∧
      SameStore s t ∧ SameSession s t ∧ SameAnswers s t ∧ SameOutside s t ∧ t.busy = s.busy ∧
      t.dout = (encoderResult s op pin arg).dout ∧ t.tx = s.tx ++ (encoderResult s op pin arg).bytes ∧
      t.statuses = s.statuses ++ [(encoderResult s op pin arg).status]) ∧
    (∀ s' : State, s'.cfg = s.cfg → s'.dout = s.dout → encoderResult s' op pin arg = encoderResult s op pin arg)

/-- The mirror is written by `digitalWrite` alone (rule R21): no other instruction changes `DOUT`, in any state. -/
def Obligations.MirrorIsWrittenOnlyByDigitalWrite : Prop :=
  ∀ (i : Instr) (s t : State), exec i s = .next t → t.dout ≠ s.dout → ∃ pin value, i = .digitalWrite pin value

/-- TX only grows, and it grows only by an Encoder operation (rules R44, R127, R138): by an operation taken as one step, or by the Transport
taking a byte of one in progress. -/
def Obligations.OnlyTheEncoderTransmits : Prop :=
  ∀ s t : State, step s = .next t → ∃ sent, t.tx = s.tx ++ sent ∧ (sent ≠ [] →
    (∃ op pin arg rest, s.inputs = .port (.command op pin arg) :: rest) ∨
    (∃ rest, s.inputs = .take :: rest ∧ s.busy ≠ none) ∨
    (∃ p rest, s.inputs = .edge p :: rest ∧ p.txReady = true ∧ s.busy ≠ none))

/-- An operation accepted and then taken by the Transport byte by byte comes to the same as the operation taken as one atomic step (rule
R91): the same bytes, the same mirror, the same status, reported once. -/
def Obligations.ByteByByteOperationEqualsTheAtomicOne : Prop :=
  ∀ (s : State) (op : BitVec 2) (pin arg : Byte), s.busy = none →
    feed (.accept op pin arg :: List.replicate (encoderResult s op pin arg).bytes.length .take) s =
      feed [.port (.command op pin arg)] s

/-- A reset while an operation is emitting bytes (rule R150, the spec's decision D23): the bytes already taken stay sent, the rest are
never sent, no status is returned, and every register is at its reset value, whose zeros are the spec's decision D10 (log entry 6). -/
def Obligations.ResetTruncatesTheOperationInProgress : Prop :=
  ∀ (s : State) (op : BitVec 2) (pin arg : Byte) (k : Nat) (lost : List Transaction),
    s.busy = none → k < (encoderResult s op pin arg).bytes.length →
    feed (.accept op pin arg :: List.replicate k .take ++ [.reset lost]) s =
      .next { State.construct s.cfg with
        inputs := s.inputs, tx := s.tx ++ (encoderResult s op pin arg).bytes.take k, statuses := s.statuses, answers := s.answers }

/-! ### The queries -/

/-- `readDigitalPin` (rule R85): the pin's bit of `DIN`, or `OOB` with data 0; nothing else changes. That the out-of-range query completes
with a status is the spec's decision D14 (log entry 14). -/
def Obligations.ReadDigitalPinAnswersTheBit : Prop :=
  ∀ (s : State) (pin : Byte),
    decodeQuery 0 pin = .readDigitalPin pin ∧
    (pin.toNat / 8 < s.cfg.nPorts → exec (.readDigitalPin pin) s = .next { s with answers := s.answers ++
      [{ status := .ok, data := if (getReg s.din (BitVec.ofNat 4 (pin.toNat / 8))).getLsbD (pin.toNat % 8) then 1 else 0 }] }) ∧
    (s.cfg.nPorts ≤ pin.toNat / 8 → exec (.readDigitalPin pin) s = .next { s with answers := s.answers ++
      [{ status := .oob, data := 0 }] })

/-- `readAnalogChannel` (rule R86): the channel's value as stored, or `OOB` with data 0; nothing else changes. That the out-of-range query
completes with a status is the spec's decision D14 (log entry 14). -/
def Obligations.ReadAnalogChannelAnswersTheValue : Prop :=
  ∀ (s : State) (channel : Byte),
    decodeQuery 1 channel = .readAnalogChannel channel ∧
    (channel.toNat < s.cfg.kChannels → exec (.readAnalogChannel channel) s = .next { s with answers := s.answers ++
      [{ status := .ok, data := getReg s.ain (BitVec.ofNat 4 channel.toNat) }] }) ∧
    (s.cfg.kChannels ≤ channel.toNat → exec (.readAnalogChannel channel) s = .next { s with answers := s.answers ++
      [{ status := .oob, data := 0 }] })

/-- `readVersion` (rule R87): `{VMAJ, VMIN}`, `idx` ignored; nothing else changes. The query and its packing are the spec's decision
D17. -/
def Obligations.ReadVersionAnswersThePair : Prop :=
  ∀ (s : State) (idx : Byte),
    decodeQuery 2 idx = .readVersion ∧
    exec .readVersion s = .next { s with answers := s.answers ++
      [{ status := .ok, data := BitVec.ofNat 14 (128 * s.vmaj.toNat + s.vmin.toNat) }] }

/-- Every query changes nothing but the answer given, and asked again it answers the same (rule R88); the unassigned one answers
`OK`, 0 (the spec's decision D18). -/
def Obligations.QueriesOnlyAnswer : Prop :=
  ∀ (s : State) (q : BitVec 2) (idx : Byte),
    (∃ a, feed [.port (.query q idx)] s = .next { s with answers := s.answers ++ [a] } ∧
      feed [.port (.query q idx), .port (.query q idx)] s = .next { s with answers := s.answers ++ [a, a] }) ∧
    exec .queryUnassigned s = .next { s with answers := s.answers ++ [{ status := .ok, data := 0 }] }

/-- Exactly three operations can end `OOB`, each under exactly one condition (rule R135; the status is the spec's decision D14, and
that the Decoder raises none its decision D13). -/
def Obligations.OutOfBoundsOnlyInThreeOperations : Prop :=
  ∀ (i : Instr) (s t : State), exec i s = .next t →
    (t.statuses = s.statuses ++ [.oob] ↔ ∃ pin value, i = .digitalWrite pin value ∧ s.cfg.nPorts ≤ pin.toNat / 8) ∧
    ((∃ d, t.answers = s.answers ++ [{ status := .oob, data := d }]) ↔
      (∃ pin, i = .readDigitalPin pin ∧ s.cfg.nPorts ≤ pin.toNat / 8) ∨
      (∃ channel, i = .readAnalogChannel channel ∧ s.cfg.kChannels ≤ channel.toNat))

/-! ### The whole machine -/

/-- A Decoder step and an Encoder step commute (rules R28, R58): their relative order is unobservable, for an operation taken as one
step, for one accepted, and for a byte taken by the Transport. -/
def Obligations.DecoderAndEncoderStepsCommute : Prop :=
  ∀ (s : State) (b : Byte) (e : Input),
    ((∃ op pin arg, e = .port (.command op pin arg) ∨ e = .accept op pin arg) ∨ e = .take) →
    feed [.port (.rx b), e] s = feed [e, .port (.rx b)] s

/-- `digitalWrite` looped back (rules R60, R98, R102), from any state outside sysex mode: the port's register equals the mirror, the pin
reads as written, the port's other pins are as the mirror had them, and no other port changes. -/
def Obligations.DigitalWriteRoundTrip : Prop :=
  ∀ (s : State) (pin : Byte) (value : BitVec 1), s.cfg.wf = true → s.sysex = false → pin.toNat / 8 < s.cfg.nPorts →
    ∃ t u, exec (.digitalWrite pin value) s = .next t ∧ feedRx (t.tx.drop s.tx.length) t = .next u ∧
      u.isIdle = true ∧ u.dout = t.dout ∧ getReg u.din (pinReg pin) = getReg u.dout (pinReg pin) ∧
      exec (.readDigitalPin pin) u = .next { u with answers := u.answers ++ [{ status := .ok, data := value.setWidth 14 }] } ∧
      (∀ k, k < 8 → k ≠ pin.toNat % 8 →
        (getReg u.din (pinReg pin)).getLsbD k = (getReg s.dout (pinReg pin)).getLsbD k) ∧
      (∀ p : Index4, p ≠ pinReg pin → getReg u.din p = getReg s.din p) ∧
      u.ain = s.ain ∧ u.vmaj = s.vmaj ∧ u.vmin = s.vmin

/-- `analogWrite` looped back (rule R102), from `IDLE`, with a pin and a `MODE_PWM` below 128 (rule R156): the channel `pin & 0x0F` holds
the value, or, where the instance has no such channel, the write is dropped (the spec's decision D13); and nothing else of the store
changes. -/
def Obligations.AnalogWriteRoundTrip : Prop :=
  ∀ (s : State) (pin value : Byte), s.isIdle = true → pin.toNat < 128 → s.cfg.modePwm.toNat < 128 →
    ∃ t u, exec (.analogWrite pin value) s = .next t ∧ feedRx (t.tx.drop s.tx.length) t = .next u ∧
      u.isIdle = true ∧
      (∀ c : Index4, (getReg u.ain c).toNat =
        if c.toNat = pin.toNat % 16 ∧ c.toNat < s.cfg.kChannels then value.toNat else (getReg s.ain c).toNat) ∧
      u.din = s.din ∧ u.vmaj = s.vmaj ∧ u.vmin = s.vmin ∧ u.dout = s.dout

/-- One clock edge of the signal-level binding is the transactions it carries (rule R49, the spec's decision D2; the order inside an edge
is the model's choice, log entry 11): reset alone when `rst` is 1; otherwise the
operation accepted when none was in progress, or the byte the Transport takes when one was, and then the received byte. -/
def Obligations.ClockEdgeIsItsTransactions : Prop :=
  ∀ (s : State) (p : PinsIn),
    (p.rst = true → feed [.edge p] s = feed [.reset [.rx p.rxData, .command p.cmdOp p.cmdPin p.cmdArg]] s) ∧
    (p.rst = false → s.busy = none → feed [.edge p] s =
      feed ((if p.cmdValid then [.accept p.cmdOp p.cmdPin p.cmdArg] else []) ++
        (if p.rxValid then [.port (.rx p.rxData)] else [])) s) ∧
    (p.rst = false → s.busy ≠ none → feed [.edge p] s =
      feed ((if p.txReady then [.take] else []) ++ (if p.rxValid then [.port (.rx p.rxData)] else [])) s)

/-- What has left the ports is never read back (rules R30, R136): a step from the same state with another record of the TX bytes, the
statuses and the answers goes the same way. -/
def Obligations.RecordOfTheOutputsIsNeverRead : Prop :=
  ∀ (s t : State) (tx : List Byte) (st : List Status) (an : List Answer),
    step s = .next t →
    ∃ u, step { s with tx := tx, statuses := st, answers := an } = .next u ∧
      { u with tx := [], statuses := [], answers := [] } = { t with tx := [], statuses := [], answers := [] } ∧
      (∃ x, t.tx = s.tx ++ x ∧ u.tx = tx ++ x) ∧ (∃ x, t.statuses = s.statuses ++ x ∧ u.statuses = st ++ x) ∧
      (∃ x, t.answers = s.answers ++ x ∧ u.answers = an ++ x)
end

