-- ==== Sys2Proof/Laws/State.lean ====
section
/-! SUPPORT. What each update of the state does to each field: one lemma per field, for simp, so that no later proof unfolds an
update. -/

namespace Sys2Proof.Machine

variable (s : State)

/-! ### awaitChannelData -/

@[simp] theorem awaitChannelData_cfg (c : Byte) (ch : Index4) : (s.awaitChannelData c ch).cfg = s.cfg := rfl
@[simp] theorem awaitChannelData_din (c : Byte) (ch : Index4) : (s.awaitChannelData c ch).din = s.din := rfl
@[simp] theorem awaitChannelData_ain (c : Byte) (ch : Index4) : (s.awaitChannelData c ch).ain = s.ain := rfl
@[simp] theorem awaitChannelData_vmaj (c : Byte) (ch : Index4) : (s.awaitChannelData c ch).vmaj = s.vmaj := rfl
@[simp] theorem awaitChannelData_vmin (c : Byte) (ch : Index4) : (s.awaitChannelData c ch).vmin = s.vmin := rfl
@[simp] theorem awaitChannelData_dout (c : Byte) (ch : Index4) : (s.awaitChannelData c ch).dout = s.dout := rfl
@[simp] theorem awaitChannelData_cmd (c : Byte) (ch : Index4) : (s.awaitChannelData c ch).cmd = c := rfl
@[simp] theorem awaitChannelData_chan (c : Byte) (ch : Index4) : (s.awaitChannelData c ch).chan = ch := rfl
@[simp] theorem awaitChannelData_rem (c : Byte) (ch : Index4) : (s.awaitChannelData c ch).rem = 2 := rfl
@[simp] theorem awaitChannelData_buf (c : Byte) (ch : Index4) : (s.awaitChannelData c ch).buf = s.buf := rfl
@[simp] theorem awaitChannelData_sysex (c : Byte) (ch : Index4) : (s.awaitChannelData c ch).sysex = s.sysex := rfl
@[simp] theorem awaitChannelData_sxcnt (c : Byte) (ch : Index4) : (s.awaitChannelData c ch).sxcnt = s.sxcnt := rfl
@[simp] theorem awaitChannelData_busy (c : Byte) (ch : Index4) : (s.awaitChannelData c ch).busy = s.busy := rfl
@[simp] theorem awaitChannelData_inputs (c : Byte) (ch : Index4) : (s.awaitChannelData c ch).inputs = s.inputs := rfl
@[simp] theorem awaitChannelData_tx (c : Byte) (ch : Index4) : (s.awaitChannelData c ch).tx = s.tx := rfl
@[simp] theorem awaitChannelData_statuses (c : Byte) (ch : Index4) : (s.awaitChannelData c ch).statuses = s.statuses := rfl
@[simp] theorem awaitChannelData_answers (c : Byte) (ch : Index4) : (s.awaitChannelData c ch).answers = s.answers := rfl

/-! ### awaitData -/

@[simp] theorem awaitData_cfg (c : Byte) : (s.awaitData c).cfg = s.cfg := rfl
@[simp] theorem awaitData_din (c : Byte) : (s.awaitData c).din = s.din := rfl
@[simp] theorem awaitData_ain (c : Byte) : (s.awaitData c).ain = s.ain := rfl
@[simp] theorem awaitData_vmaj (c : Byte) : (s.awaitData c).vmaj = s.vmaj := rfl
@[simp] theorem awaitData_vmin (c : Byte) : (s.awaitData c).vmin = s.vmin := rfl
@[simp] theorem awaitData_dout (c : Byte) : (s.awaitData c).dout = s.dout := rfl
@[simp] theorem awaitData_cmd (c : Byte) : (s.awaitData c).cmd = c := rfl
@[simp] theorem awaitData_chan (c : Byte) : (s.awaitData c).chan = s.chan := rfl
@[simp] theorem awaitData_rem (c : Byte) : (s.awaitData c).rem = 2 := rfl
@[simp] theorem awaitData_buf (c : Byte) : (s.awaitData c).buf = s.buf := rfl
@[simp] theorem awaitData_sysex (c : Byte) : (s.awaitData c).sysex = s.sysex := rfl
@[simp] theorem awaitData_sxcnt (c : Byte) : (s.awaitData c).sxcnt = s.sxcnt := rfl
@[simp] theorem awaitData_busy (c : Byte) : (s.awaitData c).busy = s.busy := rfl
@[simp] theorem awaitData_inputs (c : Byte) : (s.awaitData c).inputs = s.inputs := rfl
@[simp] theorem awaitData_tx (c : Byte) : (s.awaitData c).tx = s.tx := rfl
@[simp] theorem awaitData_statuses (c : Byte) : (s.awaitData c).statuses = s.statuses := rfl
@[simp] theorem awaitData_answers (c : Byte) : (s.awaitData c).answers = s.answers := rfl

/-! ### enterSysex -/

@[simp] theorem enterSysex_cfg : (s.enterSysex).cfg = s.cfg := rfl
@[simp] theorem enterSysex_din : (s.enterSysex).din = s.din := rfl
@[simp] theorem enterSysex_ain : (s.enterSysex).ain = s.ain := rfl
@[simp] theorem enterSysex_vmaj : (s.enterSysex).vmaj = s.vmaj := rfl
@[simp] theorem enterSysex_vmin : (s.enterSysex).vmin = s.vmin := rfl
@[simp] theorem enterSysex_dout : (s.enterSysex).dout = s.dout := rfl
@[simp] theorem enterSysex_cmd : (s.enterSysex).cmd = 0x00 := rfl
@[simp] theorem enterSysex_chan : (s.enterSysex).chan = s.chan := rfl
@[simp] theorem enterSysex_rem : (s.enterSysex).rem = 0 := rfl
@[simp] theorem enterSysex_buf : (s.enterSysex).buf = s.buf := rfl
@[simp] theorem enterSysex_sysex : (s.enterSysex).sysex = true := rfl
@[simp] theorem enterSysex_sxcnt : (s.enterSysex).sxcnt = 0 := rfl
@[simp] theorem enterSysex_busy : (s.enterSysex).busy = s.busy := rfl
@[simp] theorem enterSysex_inputs : (s.enterSysex).inputs = s.inputs := rfl
@[simp] theorem enterSysex_tx : (s.enterSysex).tx = s.tx := rfl
@[simp] theorem enterSysex_statuses : (s.enterSysex).statuses = s.statuses := rfl
@[simp] theorem enterSysex_answers : (s.enterSysex).answers = s.answers := rfl

/-! ### toIdle -/

@[simp] theorem toIdle_cfg : (s.toIdle).cfg = s.cfg := rfl
@[simp] theorem toIdle_din : (s.toIdle).din = s.din := rfl
@[simp] theorem toIdle_ain : (s.toIdle).ain = s.ain := rfl
@[simp] theorem toIdle_vmaj : (s.toIdle).vmaj = s.vmaj := rfl
@[simp] theorem toIdle_vmin : (s.toIdle).vmin = s.vmin := rfl
@[simp] theorem toIdle_dout : (s.toIdle).dout = s.dout := rfl
@[simp] theorem toIdle_cmd : (s.toIdle).cmd = 0x00 := rfl
@[simp] theorem toIdle_chan : (s.toIdle).chan = s.chan := rfl
@[simp] theorem toIdle_rem : (s.toIdle).rem = 0 := rfl
@[simp] theorem toIdle_buf : (s.toIdle).buf = s.buf := rfl
@[simp] theorem toIdle_sysex : (s.toIdle).sysex = false := rfl
@[simp] theorem toIdle_sxcnt : (s.toIdle).sxcnt = s.sxcnt := rfl
@[simp] theorem toIdle_busy : (s.toIdle).busy = s.busy := rfl
@[simp] theorem toIdle_inputs : (s.toIdle).inputs = s.inputs := rfl
@[simp] theorem toIdle_tx : (s.toIdle).tx = s.tx := rfl
@[simp] theorem toIdle_statuses : (s.toIdle).statuses = s.statuses := rfl
@[simp] theorem toIdle_answers : (s.toIdle).answers = s.answers := rfl

/-! ### storeCell -/

@[simp] theorem storeCell_cfg (i : Nat) (b : Byte) : (s.storeCell i b).cfg = s.cfg := rfl
@[simp] theorem storeCell_din (i : Nat) (b : Byte) : (s.storeCell i b).din = s.din := rfl
@[simp] theorem storeCell_ain (i : Nat) (b : Byte) : (s.storeCell i b).ain = s.ain := rfl
@[simp] theorem storeCell_vmaj (i : Nat) (b : Byte) : (s.storeCell i b).vmaj = s.vmaj := rfl
@[simp] theorem storeCell_vmin (i : Nat) (b : Byte) : (s.storeCell i b).vmin = s.vmin := rfl
@[simp] theorem storeCell_dout (i : Nat) (b : Byte) : (s.storeCell i b).dout = s.dout := rfl
@[simp] theorem storeCell_cmd (i : Nat) (b : Byte) : (s.storeCell i b).cmd = s.cmd := rfl
@[simp] theorem storeCell_chan (i : Nat) (b : Byte) : (s.storeCell i b).chan = s.chan := rfl
@[simp] theorem storeCell_rem (i : Nat) (b : Byte) : (s.storeCell i b).rem = s.rem := rfl
@[simp] theorem storeCell_buf (i : Nat) (b : Byte) : (s.storeCell i b).buf = s.buf.setIfInBounds i b := rfl
@[simp] theorem storeCell_sysex (i : Nat) (b : Byte) : (s.storeCell i b).sysex = s.sysex := rfl
@[simp] theorem storeCell_sxcnt (i : Nat) (b : Byte) : (s.storeCell i b).sxcnt = s.sxcnt := rfl
@[simp] theorem storeCell_busy (i : Nat) (b : Byte) : (s.storeCell i b).busy = s.busy := rfl
@[simp] theorem storeCell_inputs (i : Nat) (b : Byte) : (s.storeCell i b).inputs = s.inputs := rfl
@[simp] theorem storeCell_tx (i : Nat) (b : Byte) : (s.storeCell i b).tx = s.tx := rfl
@[simp] theorem storeCell_statuses (i : Nat) (b : Byte) : (s.storeCell i b).statuses = s.statuses := rfl
@[simp] theorem storeCell_answers (i : Nat) (b : Byte) : (s.storeCell i b).answers = s.answers := rfl

/-! ### storePayload -/

@[simp] theorem storePayload_cfg (b : Byte) : (s.storePayload b).cfg = s.cfg := rfl
@[simp] theorem storePayload_din (b : Byte) : (s.storePayload b).din = s.din := rfl
@[simp] theorem storePayload_ain (b : Byte) : (s.storePayload b).ain = s.ain := rfl
@[simp] theorem storePayload_vmaj (b : Byte) : (s.storePayload b).vmaj = s.vmaj := rfl
@[simp] theorem storePayload_vmin (b : Byte) : (s.storePayload b).vmin = s.vmin := rfl
@[simp] theorem storePayload_dout (b : Byte) : (s.storePayload b).dout = s.dout := rfl
@[simp] theorem storePayload_cmd (b : Byte) : (s.storePayload b).cmd = s.cmd := rfl
@[simp] theorem storePayload_chan (b : Byte) : (s.storePayload b).chan = s.chan := rfl
@[simp] theorem storePayload_rem (b : Byte) : (s.storePayload b).rem = s.rem := rfl
@[simp] theorem storePayload_buf (b : Byte) : (s.storePayload b).buf = s.buf.setIfInBounds s.sxcnt.toNat b := rfl
@[simp] theorem storePayload_sysex (b : Byte) : (s.storePayload b).sysex = s.sysex := rfl
@[simp] theorem storePayload_sxcnt (b : Byte) : (s.storePayload b).sxcnt = s.sxcnt + 1 := rfl
@[simp] theorem storePayload_busy (b : Byte) : (s.storePayload b).busy = s.busy := rfl
@[simp] theorem storePayload_inputs (b : Byte) : (s.storePayload b).inputs = s.inputs := rfl
@[simp] theorem storePayload_tx (b : Byte) : (s.storePayload b).tx = s.tx := rfl
@[simp] theorem storePayload_statuses (b : Byte) : (s.storePayload b).statuses = s.statuses := rfl
@[simp] theorem storePayload_answers (b : Byte) : (s.storePayload b).answers = s.answers := rfl

/-! ### putVersion -/

@[simp] theorem putVersion_cfg (major minor : Data7) : (s.putVersion major minor).cfg = s.cfg := rfl
@[simp] theorem putVersion_din (major minor : Data7) : (s.putVersion major minor).din = s.din := rfl
@[simp] theorem putVersion_ain (major minor : Data7) : (s.putVersion major minor).ain = s.ain := rfl
@[simp] theorem putVersion_vmaj (major minor : Data7) : (s.putVersion major minor).vmaj = major := rfl
@[simp] theorem putVersion_vmin (major minor : Data7) : (s.putVersion major minor).vmin = minor := rfl
@[simp] theorem putVersion_dout (major minor : Data7) : (s.putVersion major minor).dout = s.dout := rfl
@[simp] theorem putVersion_cmd (major minor : Data7) : (s.putVersion major minor).cmd = s.cmd := rfl
@[simp] theorem putVersion_chan (major minor : Data7) : (s.putVersion major minor).chan = s.chan := rfl
@[simp] theorem putVersion_rem (major minor : Data7) : (s.putVersion major minor).rem = s.rem := rfl
@[simp] theorem putVersion_buf (major minor : Data7) : (s.putVersion major minor).buf = s.buf := rfl
@[simp] theorem putVersion_sysex (major minor : Data7) : (s.putVersion major minor).sysex = s.sysex := rfl
@[simp] theorem putVersion_sxcnt (major minor : Data7) : (s.putVersion major minor).sxcnt = s.sxcnt := rfl
@[simp] theorem putVersion_busy (major minor : Data7) : (s.putVersion major minor).busy = s.busy := rfl
@[simp] theorem putVersion_inputs (major minor : Data7) : (s.putVersion major minor).inputs = s.inputs := rfl
@[simp] theorem putVersion_tx (major minor : Data7) : (s.putVersion major minor).tx = s.tx := rfl
@[simp] theorem putVersion_statuses (major minor : Data7) : (s.putVersion major minor).statuses = s.statuses := rfl
@[simp] theorem putVersion_answers (major minor : Data7) : (s.putVersion major minor).answers = s.answers := rfl

/-! ### putDigitalPort -/

@[simp] theorem putDigitalPort_cfg (p : Index4) (v : Value14) : (s.putDigitalPort p v).cfg = s.cfg := by unfold State.putDigitalPort; split <;> rfl
@[simp] theorem putDigitalPort_din (p : Index4) (v : Value14) : (s.putDigitalPort p v).din = if p.toNat < s.cfg.nPorts then setReg s.din p (v.setWidth 8) else s.din := by unfold State.putDigitalPort; split <;> rfl
@[simp] theorem putDigitalPort_ain (p : Index4) (v : Value14) : (s.putDigitalPort p v).ain = s.ain := by unfold State.putDigitalPort; split <;> rfl
@[simp] theorem putDigitalPort_vmaj (p : Index4) (v : Value14) : (s.putDigitalPort p v).vmaj = s.vmaj := by unfold State.putDigitalPort; split <;> rfl
@[simp] theorem putDigitalPort_vmin (p : Index4) (v : Value14) : (s.putDigitalPort p v).vmin = s.vmin := by unfold State.putDigitalPort; split <;> rfl
@[simp] theorem putDigitalPort_dout (p : Index4) (v : Value14) : (s.putDigitalPort p v).dout = s.dout := by unfold State.putDigitalPort; split <;> rfl
@[simp] theorem putDigitalPort_cmd (p : Index4) (v : Value14) : (s.putDigitalPort p v).cmd = s.cmd := by unfold State.putDigitalPort; split <;> rfl
@[simp] theorem putDigitalPort_chan (p : Index4) (v : Value14) : (s.putDigitalPort p v).chan = s.chan := by unfold State.putDigitalPort; split <;> rfl
@[simp] theorem putDigitalPort_rem (p : Index4) (v : Value14) : (s.putDigitalPort p v).rem = s.rem := by unfold State.putDigitalPort; split <;> rfl
@[simp] theorem putDigitalPort_buf (p : Index4) (v : Value14) : (s.putDigitalPort p v).buf = s.buf := by unfold State.putDigitalPort; split <;> rfl
@[simp] theorem putDigitalPort_sysex (p : Index4) (v : Value14) : (s.putDigitalPort p v).sysex = s.sysex := by unfold State.putDigitalPort; split <;> rfl
@[simp] theorem putDigitalPort_sxcnt (p : Index4) (v : Value14) : (s.putDigitalPort p v).sxcnt = s.sxcnt := by unfold State.putDigitalPort; split <;> rfl
@[simp] theorem putDigitalPort_busy (p : Index4) (v : Value14) : (s.putDigitalPort p v).busy = s.busy := by unfold State.putDigitalPort; split <;> rfl
@[simp] theorem putDigitalPort_inputs (p : Index4) (v : Value14) : (s.putDigitalPort p v).inputs = s.inputs := by unfold State.putDigitalPort; split <;> rfl
@[simp] theorem putDigitalPort_tx (p : Index4) (v : Value14) : (s.putDigitalPort p v).tx = s.tx := by unfold State.putDigitalPort; split <;> rfl
@[simp] theorem putDigitalPort_statuses (p : Index4) (v : Value14) : (s.putDigitalPort p v).statuses = s.statuses := by unfold State.putDigitalPort; split <;> rfl
@[simp] theorem putDigitalPort_answers (p : Index4) (v : Value14) : (s.putDigitalPort p v).answers = s.answers := by unfold State.putDigitalPort; split <;> rfl

/-! ### putAnalogChannel -/

@[simp] theorem putAnalogChannel_cfg (c : Index4) (v : Value14) : (s.putAnalogChannel c v).cfg = s.cfg := by unfold State.putAnalogChannel; split <;> rfl
@[simp] theorem putAnalogChannel_din (c : Index4) (v : Value14) : (s.putAnalogChannel c v).din = s.din := by unfold State.putAnalogChannel; split <;> rfl
@[simp] theorem putAnalogChannel_ain (c : Index4) (v : Value14) : (s.putAnalogChannel c v).ain = if c.toNat < s.cfg.kChannels then setReg s.ain c v else s.ain := by unfold State.putAnalogChannel; split <;> rfl
@[simp] theorem putAnalogChannel_vmaj (c : Index4) (v : Value14) : (s.putAnalogChannel c v).vmaj = s.vmaj := by unfold State.putAnalogChannel; split <;> rfl
@[simp] theorem putAnalogChannel_vmin (c : Index4) (v : Value14) : (s.putAnalogChannel c v).vmin = s.vmin := by unfold State.putAnalogChannel; split <;> rfl
@[simp] theorem putAnalogChannel_dout (c : Index4) (v : Value14) : (s.putAnalogChannel c v).dout = s.dout := by unfold State.putAnalogChannel; split <;> rfl
@[simp] theorem putAnalogChannel_cmd (c : Index4) (v : Value14) : (s.putAnalogChannel c v).cmd = s.cmd := by unfold State.putAnalogChannel; split <;> rfl
@[simp] theorem putAnalogChannel_chan (c : Index4) (v : Value14) : (s.putAnalogChannel c v).chan = s.chan := by unfold State.putAnalogChannel; split <;> rfl
@[simp] theorem putAnalogChannel_rem (c : Index4) (v : Value14) : (s.putAnalogChannel c v).rem = s.rem := by unfold State.putAnalogChannel; split <;> rfl
@[simp] theorem putAnalogChannel_buf (c : Index4) (v : Value14) : (s.putAnalogChannel c v).buf = s.buf := by unfold State.putAnalogChannel; split <;> rfl
@[simp] theorem putAnalogChannel_sysex (c : Index4) (v : Value14) : (s.putAnalogChannel c v).sysex = s.sysex := by unfold State.putAnalogChannel; split <;> rfl
@[simp] theorem putAnalogChannel_sxcnt (c : Index4) (v : Value14) : (s.putAnalogChannel c v).sxcnt = s.sxcnt := by unfold State.putAnalogChannel; split <;> rfl
@[simp] theorem putAnalogChannel_busy (c : Index4) (v : Value14) : (s.putAnalogChannel c v).busy = s.busy := by unfold State.putAnalogChannel; split <;> rfl
@[simp] theorem putAnalogChannel_inputs (c : Index4) (v : Value14) : (s.putAnalogChannel c v).inputs = s.inputs := by unfold State.putAnalogChannel; split <;> rfl
@[simp] theorem putAnalogChannel_tx (c : Index4) (v : Value14) : (s.putAnalogChannel c v).tx = s.tx := by unfold State.putAnalogChannel; split <;> rfl
@[simp] theorem putAnalogChannel_statuses (c : Index4) (v : Value14) : (s.putAnalogChannel c v).statuses = s.statuses := by unfold State.putAnalogChannel; split <;> rfl
@[simp] theorem putAnalogChannel_answers (c : Index4) (v : Value14) : (s.putAnalogChannel c v).answers = s.answers := by unfold State.putAnalogChannel; split <;> rfl

/-! ### complete -/

@[simp] theorem complete_cfg (r : EncoderResult) : (s.complete r).cfg = s.cfg := rfl
@[simp] theorem complete_din (r : EncoderResult) : (s.complete r).din = s.din := rfl
@[simp] theorem complete_ain (r : EncoderResult) : (s.complete r).ain = s.ain := rfl
@[simp] theorem complete_vmaj (r : EncoderResult) : (s.complete r).vmaj = s.vmaj := rfl
@[simp] theorem complete_vmin (r : EncoderResult) : (s.complete r).vmin = s.vmin := rfl
@[simp] theorem complete_dout (r : EncoderResult) : (s.complete r).dout = r.dout := rfl
@[simp] theorem complete_cmd (r : EncoderResult) : (s.complete r).cmd = s.cmd := rfl
@[simp] theorem complete_chan (r : EncoderResult) : (s.complete r).chan = s.chan := rfl
@[simp] theorem complete_rem (r : EncoderResult) : (s.complete r).rem = s.rem := rfl
@[simp] theorem complete_buf (r : EncoderResult) : (s.complete r).buf = s.buf := rfl
@[simp] theorem complete_sysex (r : EncoderResult) : (s.complete r).sysex = s.sysex := rfl
@[simp] theorem complete_sxcnt (r : EncoderResult) : (s.complete r).sxcnt = s.sxcnt := rfl
@[simp] theorem complete_busy (r : EncoderResult) : (s.complete r).busy = s.busy := rfl
@[simp] theorem complete_inputs (r : EncoderResult) : (s.complete r).inputs = s.inputs := rfl
@[simp] theorem complete_tx (r : EncoderResult) : (s.complete r).tx = s.tx ++ r.bytes := rfl
@[simp] theorem complete_statuses (r : EncoderResult) : (s.complete r).statuses = s.statuses ++ [r.status] := rfl
@[simp] theorem complete_answers (r : EncoderResult) : (s.complete r).answers = s.answers := rfl

/-! ### answer -/

@[simp] theorem answer_cfg (a : Answer) : (s.answer a).cfg = s.cfg := rfl
@[simp] theorem answer_din (a : Answer) : (s.answer a).din = s.din := rfl
@[simp] theorem answer_ain (a : Answer) : (s.answer a).ain = s.ain := rfl
@[simp] theorem answer_vmaj (a : Answer) : (s.answer a).vmaj = s.vmaj := rfl
@[simp] theorem answer_vmin (a : Answer) : (s.answer a).vmin = s.vmin := rfl
@[simp] theorem answer_dout (a : Answer) : (s.answer a).dout = s.dout := rfl
@[simp] theorem answer_cmd (a : Answer) : (s.answer a).cmd = s.cmd := rfl
@[simp] theorem answer_chan (a : Answer) : (s.answer a).chan = s.chan := rfl
@[simp] theorem answer_rem (a : Answer) : (s.answer a).rem = s.rem := rfl
@[simp] theorem answer_buf (a : Answer) : (s.answer a).buf = s.buf := rfl
@[simp] theorem answer_sysex (a : Answer) : (s.answer a).sysex = s.sysex := rfl
@[simp] theorem answer_sxcnt (a : Answer) : (s.answer a).sxcnt = s.sxcnt := rfl
@[simp] theorem answer_busy (a : Answer) : (s.answer a).busy = s.busy := rfl
@[simp] theorem answer_inputs (a : Answer) : (s.answer a).inputs = s.inputs := rfl
@[simp] theorem answer_tx (a : Answer) : (s.answer a).tx = s.tx := rfl
@[simp] theorem answer_statuses (a : Answer) : (s.answer a).statuses = s.statuses := rfl
@[simp] theorem answer_answers (a : Answer) : (s.answer a).answers = s.answers ++ [a] := rfl

/-! ### applyReset -/

@[simp] theorem applyReset_cfg : (s.applyReset).cfg = s.cfg := rfl
@[simp] theorem applyReset_din : (s.applyReset).din = Vector.replicate 16 0 := rfl
@[simp] theorem applyReset_ain : (s.applyReset).ain = Vector.replicate 16 0 := rfl
@[simp] theorem applyReset_vmaj : (s.applyReset).vmaj = 0 := rfl
@[simp] theorem applyReset_vmin : (s.applyReset).vmin = 0 := rfl
@[simp] theorem applyReset_dout : (s.applyReset).dout = Vector.replicate 16 0 := rfl
@[simp] theorem applyReset_cmd : (s.applyReset).cmd = 0x00 := rfl
@[simp] theorem applyReset_chan : (s.applyReset).chan = 0 := rfl
@[simp] theorem applyReset_rem : (s.applyReset).rem = 0 := rfl
@[simp] theorem applyReset_buf : (s.applyReset).buf = Vector.replicate 32 0 := rfl
@[simp] theorem applyReset_sysex : (s.applyReset).sysex = false := rfl
@[simp] theorem applyReset_sxcnt : (s.applyReset).sxcnt = 0 := rfl
@[simp] theorem applyReset_busy : (s.applyReset).busy = none := rfl
@[simp] theorem applyReset_inputs : (s.applyReset).inputs = s.inputs := rfl
@[simp] theorem applyReset_tx : (s.applyReset).tx = s.tx := rfl
@[simp] theorem applyReset_statuses : (s.applyReset).statuses = s.statuses := rfl
@[simp] theorem applyReset_answers : (s.applyReset).answers = s.answers := rfl

/-! ### offer -/

@[simp] theorem offer_cfg (i : Input) : (s.offer i).cfg = s.cfg := rfl
@[simp] theorem offer_din (i : Input) : (s.offer i).din = s.din := rfl
@[simp] theorem offer_ain (i : Input) : (s.offer i).ain = s.ain := rfl
@[simp] theorem offer_vmaj (i : Input) : (s.offer i).vmaj = s.vmaj := rfl
@[simp] theorem offer_vmin (i : Input) : (s.offer i).vmin = s.vmin := rfl
@[simp] theorem offer_dout (i : Input) : (s.offer i).dout = s.dout := rfl
@[simp] theorem offer_cmd (i : Input) : (s.offer i).cmd = s.cmd := rfl
@[simp] theorem offer_chan (i : Input) : (s.offer i).chan = s.chan := rfl
@[simp] theorem offer_rem (i : Input) : (s.offer i).rem = s.rem := rfl
@[simp] theorem offer_buf (i : Input) : (s.offer i).buf = s.buf := rfl
@[simp] theorem offer_sysex (i : Input) : (s.offer i).sysex = s.sysex := rfl
@[simp] theorem offer_sxcnt (i : Input) : (s.offer i).sxcnt = s.sxcnt := rfl
@[simp] theorem offer_busy (i : Input) : (s.offer i).busy = s.busy := rfl
@[simp] theorem offer_inputs (i : Input) : (s.offer i).inputs = i :: s.inputs := rfl
@[simp] theorem offer_tx (i : Input) : (s.offer i).tx = s.tx := rfl
@[simp] theorem offer_statuses (i : Input) : (s.offer i).statuses = s.statuses := rfl
@[simp] theorem offer_answers (i : Input) : (s.offer i).answers = s.answers := rfl

/-! ### dispatch -/

@[simp] theorem dispatch_cfg : (s.dispatch).cfg = s.cfg := by unfold State.dispatch; dsimp only; split_ifs <;> simp
@[simp] theorem dispatch_dout : (s.dispatch).dout = s.dout := by unfold State.dispatch; dsimp only; split_ifs <;> simp
@[simp] theorem dispatch_cmd : (s.dispatch).cmd = s.cmd := by unfold State.dispatch; dsimp only; split_ifs <;> simp
@[simp] theorem dispatch_chan : (s.dispatch).chan = s.chan := by unfold State.dispatch; dsimp only; split_ifs <;> simp
@[simp] theorem dispatch_rem : (s.dispatch).rem = s.rem := by unfold State.dispatch; dsimp only; split_ifs <;> simp
@[simp] theorem dispatch_buf : (s.dispatch).buf = s.buf := by unfold State.dispatch; dsimp only; split_ifs <;> simp
@[simp] theorem dispatch_sysex : (s.dispatch).sysex = s.sysex := by unfold State.dispatch; dsimp only; split_ifs <;> simp
@[simp] theorem dispatch_sxcnt : (s.dispatch).sxcnt = s.sxcnt := by unfold State.dispatch; dsimp only; split_ifs <;> simp
@[simp] theorem dispatch_busy : (s.dispatch).busy = s.busy := by unfold State.dispatch; dsimp only; split_ifs <;> simp
@[simp] theorem dispatch_inputs : (s.dispatch).inputs = s.inputs := by unfold State.dispatch; dsimp only; split_ifs <;> simp
@[simp] theorem dispatch_tx : (s.dispatch).tx = s.tx := by unfold State.dispatch; dsimp only; split_ifs <;> simp
@[simp] theorem dispatch_statuses : (s.dispatch).statuses = s.statuses := by unfold State.dispatch; dsimp only; split_ifs <;> simp
@[simp] theorem dispatch_answers : (s.dispatch).answers = s.answers := by unfold State.dispatch; dsimp only; split_ifs <;> simp

/-! ### takeData -/

@[simp] theorem takeData_cfg (b : Byte) : (s.takeData b).cfg = s.cfg := by unfold State.takeData; dsimp only; split <;> simp
@[simp] theorem takeData_dout (b : Byte) : (s.takeData b).dout = s.dout := by unfold State.takeData; dsimp only; split <;> simp
@[simp] theorem takeData_chan (b : Byte) : (s.takeData b).chan = s.chan := by unfold State.takeData; dsimp only; split <;> simp
@[simp] theorem takeData_rem (b : Byte) : (s.takeData b).rem = s.rem - 1 := by unfold State.takeData; dsimp only; split <;> simp
@[simp] theorem takeData_buf (b : Byte) : (s.takeData b).buf = s.buf.setIfInBounds (dataCell s.rem) b := by unfold State.takeData; dsimp only; split <;> simp
@[simp] theorem takeData_sysex (b : Byte) : (s.takeData b).sysex = s.sysex := by unfold State.takeData; dsimp only; split <;> simp
@[simp] theorem takeData_sxcnt (b : Byte) : (s.takeData b).sxcnt = s.sxcnt := by unfold State.takeData; dsimp only; split <;> simp
@[simp] theorem takeData_busy (b : Byte) : (s.takeData b).busy = s.busy := by unfold State.takeData; dsimp only; split <;> simp
@[simp] theorem takeData_inputs (b : Byte) : (s.takeData b).inputs = s.inputs := by unfold State.takeData; dsimp only; split <;> simp
@[simp] theorem takeData_tx (b : Byte) : (s.takeData b).tx = s.tx := by unfold State.takeData; dsimp only; split <;> simp
@[simp] theorem takeData_statuses (b : Byte) : (s.takeData b).statuses = s.statuses := by unfold State.takeData; dsimp only; split <;> simp
@[simp] theorem takeData_answers (b : Byte) : (s.takeData b).answers = s.answers := by unfold State.takeData; dsimp only; split <;> simp

/-! ### takeByte -/

@[simp] theorem takeByte_cfg : (s.takeByte).cfg = s.cfg := by unfold State.takeByte; repeat (first | rfl | split)
@[simp] theorem takeByte_din : (s.takeByte).din = s.din := by unfold State.takeByte; repeat (first | rfl | split)
@[simp] theorem takeByte_ain : (s.takeByte).ain = s.ain := by unfold State.takeByte; repeat (first | rfl | split)
@[simp] theorem takeByte_vmaj : (s.takeByte).vmaj = s.vmaj := by unfold State.takeByte; repeat (first | rfl | split)
@[simp] theorem takeByte_vmin : (s.takeByte).vmin = s.vmin := by unfold State.takeByte; repeat (first | rfl | split)
@[simp] theorem takeByte_dout : (s.takeByte).dout = s.dout := by unfold State.takeByte; repeat (first | rfl | split)
@[simp] theorem takeByte_cmd : (s.takeByte).cmd = s.cmd := by unfold State.takeByte; repeat (first | rfl | split)
@[simp] theorem takeByte_chan : (s.takeByte).chan = s.chan := by unfold State.takeByte; repeat (first | rfl | split)
@[simp] theorem takeByte_rem : (s.takeByte).rem = s.rem := by unfold State.takeByte; repeat (first | rfl | split)
@[simp] theorem takeByte_buf : (s.takeByte).buf = s.buf := by unfold State.takeByte; repeat (first | rfl | split)
@[simp] theorem takeByte_sysex : (s.takeByte).sysex = s.sysex := by unfold State.takeByte; repeat (first | rfl | split)
@[simp] theorem takeByte_sxcnt : (s.takeByte).sxcnt = s.sxcnt := by unfold State.takeByte; repeat (first | rfl | split)
@[simp] theorem takeByte_inputs : (s.takeByte).inputs = s.inputs := by unfold State.takeByte; repeat (first | rfl | split)
@[simp] theorem takeByte_answers : (s.takeByte).answers = s.answers := by unfold State.takeByte; repeat (first | rfl | split)

/-! ### acceptOperation -/

@[simp] theorem acceptOperation_cfg (op : BitVec 2) (pin arg : Byte) : (s.acceptOperation op pin arg).cfg = s.cfg := by unfold State.acceptOperation; dsimp only; repeat (first | rfl | split)
@[simp] theorem acceptOperation_din (op : BitVec 2) (pin arg : Byte) : (s.acceptOperation op pin arg).din = s.din := by unfold State.acceptOperation; dsimp only; repeat (first | rfl | split)
@[simp] theorem acceptOperation_ain (op : BitVec 2) (pin arg : Byte) : (s.acceptOperation op pin arg).ain = s.ain := by unfold State.acceptOperation; dsimp only; repeat (first | rfl | split)
@[simp] theorem acceptOperation_vmaj (op : BitVec 2) (pin arg : Byte) : (s.acceptOperation op pin arg).vmaj = s.vmaj := by unfold State.acceptOperation; dsimp only; repeat (first | rfl | split)
@[simp] theorem acceptOperation_vmin (op : BitVec 2) (pin arg : Byte) : (s.acceptOperation op pin arg).vmin = s.vmin := by unfold State.acceptOperation; dsimp only; repeat (first | rfl | split)
@[simp] theorem acceptOperation_cmd (op : BitVec 2) (pin arg : Byte) : (s.acceptOperation op pin arg).cmd = s.cmd := by unfold State.acceptOperation; dsimp only; repeat (first | rfl | split)
@[simp] theorem acceptOperation_chan (op : BitVec 2) (pin arg : Byte) : (s.acceptOperation op pin arg).chan = s.chan := by unfold State.acceptOperation; dsimp only; repeat (first | rfl | split)
@[simp] theorem acceptOperation_rem (op : BitVec 2) (pin arg : Byte) : (s.acceptOperation op pin arg).rem = s.rem := by unfold State.acceptOperation; dsimp only; repeat (first | rfl | split)
@[simp] theorem acceptOperation_buf (op : BitVec 2) (pin arg : Byte) : (s.acceptOperation op pin arg).buf = s.buf := by unfold State.acceptOperation; dsimp only; repeat (first | rfl | split)
@[simp] theorem acceptOperation_sysex (op : BitVec 2) (pin arg : Byte) : (s.acceptOperation op pin arg).sysex = s.sysex := by unfold State.acceptOperation; dsimp only; repeat (first | rfl | split)
@[simp] theorem acceptOperation_sxcnt (op : BitVec 2) (pin arg : Byte) : (s.acceptOperation op pin arg).sxcnt = s.sxcnt := by unfold State.acceptOperation; dsimp only; repeat (first | rfl | split)
@[simp] theorem acceptOperation_inputs (op : BitVec 2) (pin arg : Byte) : (s.acceptOperation op pin arg).inputs = s.inputs := by unfold State.acceptOperation; dsimp only; repeat (first | rfl | split)
@[simp] theorem acceptOperation_answers (op : BitVec 2) (pin arg : Byte) : (s.acceptOperation op pin arg).answers = s.answers := by unfold State.acceptOperation; dsimp only; repeat (first | rfl | split)

end Sys2Proof.Machine
end

