-- ==== Sys2Proof/Laws/Ops.lean ====
section
/-! SUPPORT. One lemma for each shared operation that says everything it can do, and the small lemmas beside it. The proofs cite these
instead of unfolding the operations. -/

namespace Sys2Proof.Machine

open Host (Outcome)

/-! ### Register arrays -/

/-- Read after write: the register written, and every other one. -/
theorem getReg_setReg {α : Type} (v : Regs16 α) (i j : Index4) (x : α) :
    getReg (setReg v i x) j = if j = i then x else getReg v j := by
  unfold getReg setReg
  rw [Vector.getElem_set]
  by_cases h : j = i
  · simp [h]
  · have : ¬ i.toNat = j.toNat := fun e => h (BitVec.eq_of_toNat_eq e.symm)
    simp [h, this]

@[simp] theorem getReg_replicate {α : Type} (x : α) (i : Index4) : getReg (Vector.replicate 16 x) i = x := by
  simp [getReg]

/-- Two register arrays with the same registers are the same. -/
theorem regs_ext {α : Type} {v w : Regs16 α} (h : ∀ i : Index4, getReg v i = getReg w i) : v = w := by
  ext i hi
  have := h (BitVec.ofNat 4 i)
  simpa [getReg, Nat.mod_eq_of_lt hi] using this

/-! ### Bytes and fields -/

/-- A data byte is its seven significant bits, widened. -/
theorem dataByte_widen {b : Byte} (h : b < 0x80) : (b.setWidth 7).setWidth 8 = b := by
  apply BitVec.eq_of_toNat_eq
  have : b.toNat < 128 := h
  simp; omega

/-! ### The Decoder -/

/-- The instructions that change nothing: the headers the Decoder does not act on (rules R115 to R120). -/
def ignored : Instr → Bool
  | .dataStray _ | .unassigned8n _ | .unassignedAn _ | .unassignedBn _ | .reportAnalog _ | .reportDigital _
  | .unassignedF1 | .unassignedF2F3 _ | .setPinMode | .unassignedF5 | .unassignedF6 | .endSysex | .unassignedF8
  | .unassignedFAFB _ | .unassignedFCFD _ | .unassignedFE | .systemReset => true
  | _ => false

theorem exec_ignored {i : Instr} (h : ignored i = true) (s : State) : exec i s = .next s := by
  cases i <;> first | rfl | simp [ignored] at h

/-- Headers the Decoder acts on; every other header changes nothing (rules R73, R108). -/
theorem decodeHeader_cases : ∀ b : Byte,
    (b &&& 0xF0 = 0x90 ∧ decodeHeader b = .digitalMessage (b.setWidth 4)) ∨
    (b &&& 0xF0 = 0xE0 ∧ decodeHeader b = .analogMessage (b.setWidth 4)) ∨
    (b = 0xF9 ∧ decodeHeader b = .reportVersion) ∨
    (b = 0xF0 ∧ decodeHeader b = .startSysex) ∨
    (b &&& 0xF0 ≠ 0x90 ∧ b &&& 0xF0 ≠ 0xE0 ∧ b ≠ 0xF9 ∧ b ≠ 0xF0 ∧ ignored (decodeHeader b) = true) := by
  decide

/-- A header byte as one update of the session (rule R108). -/
def State.takeHeader (s : State) (b : Byte) : State :=
  if b &&& 0xF0 = 0x90 then s.awaitChannelData 0x90 (b.setWidth 4)
  else if b &&& 0xF0 = 0xE0 then s.awaitChannelData 0xE0 (b.setWidth 4)
  else if b = 0xF9 then s.awaitData 0xF9
  else if b = 0xF0 then s.enterSysex
  else s

theorem exec_decodeHeader (b : Byte) (s : State) : exec (decodeHeader b) s = .next (s.takeHeader b) := by
  unfold State.takeHeader
  rcases decodeHeader_cases b with ⟨h, e⟩ | ⟨h, e⟩ | ⟨rfl, e⟩ | ⟨rfl, e⟩ | ⟨h1, h2, h3, h4, e⟩
  · rw [e, if_pos h]; rfl
  · rw [e, if_neg (by rw [h]; decide), if_pos h]; rfl
  · rw [e]; rfl
  · rw [e]; rfl
  · rw [if_neg h1, if_neg h2, if_neg h3, if_neg h4, exec_ignored e]

/-- A whole Decoder step, by its three arms (rule R105). -/
theorem exec_decodeRx (s : State) (b : Byte) :
    exec (decodeRx s.sysex s.rem b) s =
      if s.sysex = true then (if b = 0xF7 then .next s.toIdle else execSysexPayload b s)
      else if s.rem ≠ 0 ∧ b < 0x80 then .next (s.takeData b)
      else .next (s.takeHeader b) := by
  unfold decodeRx rxSpace
  by_cases h : s.sysex = true
  · simp only [h, if_true, decodeSysex]
    split_ifs <;> rfl
  · rw [if_neg h, if_neg h]
    by_cases h2 : s.rem ≠ 0 ∧ b < 0x80
    · rw [if_pos (by simpa [isDataByte] using h2), if_pos h2]
      show execDataByte _ _ = _
      rw [execDataByte, dataByte_widen h2.2]
    · rw [if_neg (by simpa [isDataByte] using h2), if_neg h2]
      exact exec_decodeHeader b s

/-- A header touches nothing but the session (rules R108, R127). -/
theorem takeHeader_frame (s : State) (b : Byte) :
    SameStore s (s.takeHeader b) ∧ SameEncoder s (s.takeHeader b) ∧ SameSent s (s.takeHeader b) ∧
    SameAnswers s (s.takeHeader b) ∧ SameOutside s (s.takeHeader b) ∧ (s.takeHeader b).buf = s.buf := by
  unfold State.takeHeader
  split_ifs <;> simp [SameStore, SameEncoder, SameSent, SameAnswers, SameOutside]

/-! ### The store's writes -/

/-- `Dispatch` writes one register of the store, or the version pair, or nothing (rule R109). -/
theorem dispatch_cases (s : State) :
    (s.cmd = 0x90 ∧ s.dispatch = s.putDigitalPort s.chan (assemble s.buf[0] s.buf[1])) ∨
    (s.cmd = 0xE0 ∧ s.dispatch = s.putAnalogChannel s.chan (assemble s.buf[0] s.buf[1])) ∨
    (s.cmd = 0xF9 ∧ s.dispatch = s.putVersion (s.buf[1].setWidth 7) (s.buf[0].setWidth 7)) ∨
    (s.cmd ≠ 0x90 ∧ s.cmd ≠ 0xE0 ∧ s.cmd ≠ 0xF9 ∧ s.dispatch = s) := by
  unfold State.dispatch
  dsimp only
  split_ifs with h1 h2 h3 <;> simp_all

/-! ### The Encoder -/

/-- What an operation comes to depends on the parameters and the mirror alone (rule R96). -/
theorem encoderResult_congr {s s' : State} (hc : s'.cfg = s.cfg) (hd : s'.dout = s.dout) (op : BitVec 2) (pin arg : Byte) :
    encoderResult s' op pin arg = encoderResult s op pin arg := by
  simp [encoderResult, pinModeResult, digitalWriteResult, analogWriteResult, requestReportsResult, State.emitted,
    State.outOfBounds, hc, hd]

/-- An operation with no byte to send is one that is out of range, and then the mirror is untouched (rules R91, R134). -/
theorem encoderResult_status (s : State) (op : BitVec 2) (pin arg : Byte) :
    (encoderResult s op pin arg).bytes ≠ [] ∧ (encoderResult s op pin arg).status = .ok ∨
    (encoderResult s op pin arg).bytes = [] ∧ (encoderResult s op pin arg).status = .oob ∧
      (encoderResult s op pin arg).dout = s.dout := by
  unfold encoderResult
  split_ifs
  · left; simp [pinModeResult, State.emitted, framePM]
  · unfold digitalWriteResult
    split_ifs
    · right; simp [State.outOfBounds]
    · left; simp [frameCQ2]
  · left; simp [analogWriteResult, State.emitted, framePM]
  · left; constructor
    · simp [requestReportsResult, State.emitted, nReportAnalog, frameCQ1, List.range_succ]
    · simp [requestReportsResult, State.emitted]

/-- The command port runs exactly the operation its result describes (rule R91). -/
theorem exec_decodeCommand (s : State) (op : BitVec 2) (pin arg : Byte) :
    exec (decodeCommand op pin arg) s = .next (s.complete (encoderResult s op pin arg)) := by
  unfold decodeCommand encoderResult
  split_ifs <;> rfl

/-- The query port gives exactly the answer its select code describes (rule R88). -/
theorem exec_decodeQuery (s : State) (q : BitVec 2) (idx : Byte) :
    exec (decodeQuery q idx) s = .next (s.answer (queryAnswer s q idx)) := by
  unfold decodeQuery queryAnswer
  split_ifs <;> rfl

/-! ### Runs -/

@[simp] theorem step_offer (s : State) (i : Input) : step (s.offer i) = runInput i s := rfl

@[simp] theorem feed_nil (s : State) : feed [] s = .next s := rfl

theorem feed_cons (i : Input) (is : List Input) (s : State) :
    feed (i :: is) s = match runInput i s with
      | .next t => feed is t
      | .fault r => .fault r
      | .refused r => .refused r := rfl

theorem feed_cons_next {i : Input} {is : List Input} {s t : State} (h : runInput i s = .next t) :
    feed (i :: is) s = feed is t := by
  rw [feed_cons, h]

/-- A run cut in two. -/
theorem feed_append (is js : List Input) (s : State) :
    feed (is ++ js) s = match feed is s with
      | .next t => feed js t
      | .fault r => .fault r
      | .refused r => .refused r := by
  induction is generalizing s with
  | nil => rfl
  | cons i is ih =>
    rw [List.cons_append, feed_cons, feed_cons]
    cases runInput i s <;> simp [ih]

@[simp] theorem feedRx_nil (s : State) : feedRx [] s = .next s := rfl

theorem feedRx_cons (b : Byte) (bs : List Byte) (s : State) :
    feedRx (b :: bs) s = match exec (decodeRx s.sysex s.rem b) s with
      | .next t => feedRx bs t
      | .fault r => .fault r
      | .refused r => .refused r := rfl

theorem feedRx_append (as bs : List Byte) (s : State) :
    feedRx (as ++ bs) s = match feedRx as s with
      | .next t => feedRx bs t
      | .fault r => .fault r
      | .refused r => .refused r := by
  unfold feedRx
  rw [List.map_append, feed_append]

end Sys2Proof.Machine
end

