-- ==== Sys2Proof/Laws/Decoder.lean ====
section
/-! SUPPORT. The Decoder's data bytes and sysex bytes, each said once and whole (rules R71, R72, R106, R107, R109), and the values of
the split and assembly as numbers (rule R103). -/

namespace Sys2Proof.Machine

open Host (Outcome)

/-! ### Split and assembly as numbers -/

theorem toNat_assemble (first second : Byte) :
    (assemble first second).toNat = (first.toNat + 128 * second.toNat) % 16384 := by
  have h1 := first.isLt
  simp [assemble, Nat.shiftLeft_eq]
  omega

theorem toNat_splitLow (v : Value14) : (splitLow v).toNat = v.toNat % 128 := by
  have : v.toNat % 256 &&& 127 = v.toNat % 256 % 2 ^ 7 := Nat.and_two_pow_sub_one_eq_mod _ 7
  simp [splitLow]
  omega

theorem toNat_splitHigh (v : Value14) : (splitHigh v).toNat = v.toNat / 128 := by
  have h := v.isLt
  simp [splitHigh, Nat.shiftRight_eq_div_pow]
  omega

/-- Splitting loses nothing (rule R102). -/
@[simp] theorem assemble_split (v : Value14) : assemble (splitLow v) (splitHigh v) = v := by
  have h := v.isLt
  apply BitVec.eq_of_toNat_eq
  rw [toNat_assemble, toNat_splitLow, toNat_splitHigh]
  omega

theorem assemble_eq_ofNat (first second : Byte) :
    assemble first second = BitVec.ofNat 14 (first.toNat + 128 * second.toNat) := by
  apply BitVec.eq_of_toNat_eq
  rw [toNat_assemble]; simp

theorem setWidth_assemble (first second : Byte) :
    (assemble first second).setWidth 8 = BitVec.ofNat 8 (first.toNat + 128 * second.toNat) := by
  apply BitVec.eq_of_toNat_eq
  rw [BitVec.toNat_setWidth, toNat_assemble]; simp

/-! ### The store's write micro-operations, register by register -/

/-- A write that is dropped where the register does not exist, read back. -/
theorem getReg_ite_setReg {α : Type} (v : Regs16 α) (n : Nat) (i j : Index4) (x : α) :
    getReg (if i.toNat < n then setReg v i x else v) j = if j = i ∧ j.toNat < n then x else getReg v j := by
  by_cases h : i.toNat < n
  · rw [if_pos h, getReg_setReg]
    by_cases hj : j = i
    · subst hj; simp [h]
    · simp [hj]
  · rw [if_neg h, if_neg]
    rintro ⟨rfl, h2⟩
    exact h h2

theorem putDigitalPort_getReg (s : State) (port p : Index4) (v : Value14) :
    getReg (s.putDigitalPort port v).din p =
      if p = port ∧ p.toNat < s.cfg.nPorts then v.setWidth 8 else getReg s.din p := by
  rw [putDigitalPort_din, getReg_ite_setReg]

theorem putAnalogChannel_getReg (s : State) (channel c : Index4) (v : Value14) :
    getReg (s.putAnalogChannel channel v).ain c =
      if c = channel ∧ c.toNat < s.cfg.kChannels then v else getReg s.ain c := by
  rw [putAnalogChannel_ain, getReg_ite_setReg]

/-! ### Data bytes (rule R107) -/

theorem setIfInBounds_eq_set (v : Vector Byte 32) {i : Nat} (h : i < 32) (b : Byte) : v.setIfInBounds i b = v.set i b := by
  ext j hj
  simp [Vector.getElem_set, Vector.getElem_setIfInBounds]

/-- The state between storing a data byte and dispatching. -/
def State.dataStored (s : State) (b : Byte) : State := { s.storeCell (dataCell s.rem) b with rem := s.rem - 1 }

theorem takeData_eq (s : State) (b : Byte) :
    s.takeData b = if s.rem - 1 = 0 ∧ s.cmd ≠ 0x00 then { (s.dataStored b).dispatch with cmd := 0x00 } else s.dataStored b := rfl

theorem dataStored_first {s : State} (h : s.rem = 2) (b : Byte) :
    s.dataStored b = { s with buf := s.buf.set 0 b, rem := 1 } := by
  have hb : s.buf.setIfInBounds (dataCell 2) b = s.buf.set 0 b := setIfInBounds_eq_set _ (by decide) b
  simp only [State.dataStored, State.storeCell, h, hb]
  rfl

theorem dataStored_second {s : State} (h : s.rem = 1) (b : Byte) :
    s.dataStored b = { s with buf := s.buf.set 1 b, rem := 0 } := by
  have hb : s.buf.setIfInBounds (dataCell 1) b = s.buf.set 1 b := setIfInBounds_eq_set _ (by decide) b
  simp only [State.dataStored, State.storeCell, h, hb]
  rfl

/-- The first data byte of a frame is kept in `BUF[0]`. -/
theorem takeData_first {s : State} (h : s.rem = 2) (b : Byte) :
    s.takeData b = { s with buf := s.buf.set 0 b, rem := 1 } := by
  rw [takeData_eq, if_neg (by rintro ⟨e, -⟩; rw [h] at e; exact absurd e (by decide)), dataStored_first h]

/-- The second data byte of a frame is kept in `BUF[1]`, what `CMD` selects is dispatched, and no command is pending. -/
theorem takeData_second {s : State} (h : s.rem = 1) (b : Byte) :
    s.takeData b = { ({ s with buf := s.buf.set 1 b, rem := 0 } : State).dispatch with cmd := 0x00 } := by
  rw [takeData_eq, ← dataStored_second h]
  by_cases hc : s.cmd = 0x00
  · rw [if_neg (by simp [hc])]
    have hs : (s.dataStored b).cmd = 0x00 := hc
    have hd : (s.dataStored b).dispatch = s.dataStored b := by
      rcases dispatch_cases (s.dataStored b) with ⟨e, _⟩ | ⟨e, _⟩ | ⟨e, _⟩ | ⟨_, _, _, e⟩
      · rw [hs] at e; exact absurd e (by decide)
      · rw [hs] at e; exact absurd e (by decide)
      · rw [hs] at e; exact absurd e (by decide)
      · exact e
    rw [hd, ← hs]
  · rw [if_pos ⟨by rw [h]; rfl, hc⟩]

/-- What a frame's second data byte does to the store (rules R109 to R112), register by register. -/
theorem takeData_second_store {s : State} (h : s.rem = 1) (b : Byte) :
    (∀ p, getReg (s.takeData b).din p =
      if s.cmd = 0x90 ∧ p = s.chan ∧ p.toNat < s.cfg.nPorts then (assemble s.buf[0] b).setWidth 8 else getReg s.din p) ∧
    (∀ c, getReg (s.takeData b).ain c =
      if s.cmd = 0xE0 ∧ c = s.chan ∧ c.toNat < s.cfg.kChannels then assemble s.buf[0] b else getReg s.ain c) ∧
    (s.takeData b).vmaj = (if s.cmd = 0xF9 then b.setWidth 7 else s.vmaj) ∧
    (s.takeData b).vmin = (if s.cmd = 0xF9 then s.buf[0].setWidth 7 else s.vmin) ∧
    (s.takeData b).cmd = 0x00 := by
  rw [takeData_second h]
  rcases dispatch_cases ({ s with buf := s.buf.set 1 b, rem := 0 } : State) with ⟨hc, e⟩ | ⟨hc, e⟩ | ⟨hc, e⟩ | ⟨h1, h2, h3, e⟩ <;>
    rw [e]
  · replace hc : s.cmd = 0x90 := hc
    simp [hc, getReg_ite_setReg]
  · replace hc : s.cmd = 0xE0 := hc
    simp [hc, getReg_ite_setReg]
  · replace hc : s.cmd = 0xF9 := hc
    simp [hc]
  · replace h1 : s.cmd ≠ 0x90 := h1
    replace h2 : s.cmd ≠ 0xE0 := h2
    replace h3 : s.cmd ≠ 0xF9 := h3
    simp only [BitVec.ofNat_eq_ofNat] at h1 h2 h3
    simp [h1, h2, h3]

/-- Before its last data byte a frame changes nothing but the session (rules R55, R107). -/
theorem takeData_store_of_rem_ne_one {s : State} (h : s.rem ≠ 1) (b : Byte) : SameStore s (s.takeData b) := by
  rw [takeData_eq, if_neg]
  · exact ⟨rfl, rfl, rfl, rfl⟩
  · rintro ⟨e, -⟩
    apply h
    have : s.rem - 1 = 0 := e
    revert this
    generalize s.rem = r
    revert r
    decide

/-! ### Sysex payload (rules R106, R123) -/

theorem execSysexPayload_store {s : State} {b : Byte} (h : s.sxcnt.toNat < 32) :
    execSysexPayload b s = .next (s.storePayload b) := if_pos h

theorem execSysexPayload_drop {s : State} {b : Byte} (h : ¬ s.sxcnt.toNat < 32) (ht : s.Truncates) :
    execSysexPayload b s = .next s := by
  rw [execSysexPayload, if_neg (by simpa [bufMax] using h), ht]

/-- A payload byte answers the stored state, the same state, or, where the parameter asks for it, the fault. -/
theorem execSysexPayload_cases (b : Byte) (s : State) :
    (s.sxcnt.toNat < 32 ∧ execSysexPayload b s = .next (s.storePayload b)) ∨
    (32 ≤ s.sxcnt.toNat ∧ s.Truncates ∧ execSysexPayload b s = .next s) ∨
    (32 ≤ s.sxcnt.toNat ∧ s.cfg.sysexOverflow = .fault ∧ execSysexPayload b s = .fault .sysexOverflow) := by
  by_cases h : s.sxcnt.toNat < 32
  · exact .inl ⟨h, execSysexPayload_store h⟩
  · right
    cases ho : s.cfg.sysexOverflow with
    | truncate => exact .inl ⟨by omega, ho, execSysexPayload_drop h ho⟩
    | fault => exact .inr ⟨by omega, rfl, by rw [execSysexPayload, if_neg (by simpa [bufMax] using h), ho]⟩

/-- One Decoder step, when it answers a next state, is one of five updates (rules R105 to R108). -/
theorem rx_next_cases {s t : State} {b : Byte} (h : exec (decodeRx s.sysex s.rem b) s = .next t) :
    (s.sysex = true ∧ b = 0xF7 ∧ t = s.toIdle) ∨
    (s.sysex = true ∧ b ≠ 0xF7 ∧ s.sxcnt.toNat < 32 ∧ t = s.storePayload b) ∨
    (s.sysex = true ∧ b ≠ 0xF7 ∧ 32 ≤ s.sxcnt.toNat ∧ t = s) ∨
    (s.sysex = false ∧ s.rem ≠ 0 ∧ b < 0x80 ∧ t = s.takeData b) ∨
    (s.sysex = false ∧ (s.rem = 0 ∨ ¬ b < 0x80) ∧ t = s.takeHeader b) := by
  rw [exec_decodeRx] at h
  split_ifs at h with h1 h2 h3
  · cases h; exact .inl ⟨h1, h2, rfl⟩
  · rcases execSysexPayload_cases b s with ⟨hs, e⟩ | ⟨hs, _, e⟩ | ⟨_, _, e⟩ <;> rw [e] at h <;> cases h
    · exact .inr (.inl ⟨h1, h2, hs, rfl⟩)
    · exact .inr (.inr (.inl ⟨h1, h2, hs, rfl⟩))
  · cases h; exact .inr (.inr (.inr (.inl ⟨by simpa using h1, h3.1, h3.2, rfl⟩)))
  · cases h
    refine .inr (.inr (.inr (.inr ⟨by simpa using h1, ?_, rfl⟩)))
    by_cases hr : s.rem = 0
    · exact .inl hr
    · exact .inr fun hb => h3 ⟨hr, hb⟩

/-- An instance that truncates never stops at a received byte (rule R105: "total"). -/
theorem rx_next {s : State} (ht : s.Truncates) (b : Byte) : ∃ t, exec (decodeRx s.sysex s.rem b) s = .next t := by
  rw [exec_decodeRx]
  split_ifs
  · exact ⟨_, rfl⟩
  · rcases execSysexPayload_cases b s with ⟨_, e⟩ | ⟨_, _, e⟩ | ⟨_, hf, _⟩
    · exact ⟨_, e⟩
    · exact ⟨_, e⟩
    · rw [ht] at hf; cases hf
  · exact ⟨_, rfl⟩
  · exact ⟨_, rfl⟩

end Sys2Proof.Machine
end

