-- ==== Sys2Proof/Laws/Encoder.lean ====
section
/-! SUPPORT. The Encoder's fields and results in numbers, and everything that accepting an operation and taking one of its bytes can
do. -/

namespace Sys2Proof.Machine

/-- Port, register index, bit and header of a pin, as numbers (rules R40, R93, R94). -/
theorem pin_fields : ∀ pin : Byte,
    pinPort pin = pin.toNat / 8 ∧ pinBit pin = pin.toNat % 8 ∧ pinReg pin = BitVec.ofNat 4 (pin.toNat / 8) ∧
    (pin.toNat / 8 < 16 → (pinReg pin).toNat = pin.toNat / 8 ∧ 0x90 ||| (pin >>> 3) = BitVec.ofNat 8 (0x90 + pin.toNat / 8)) ∧
    0xE0 ||| (pin &&& 0x0F) = BitVec.ofNat 8 (0xE0 + pin.toNat % 16) := by decide +kernel

/-- The two data bytes of an 8-bit value, as numbers (rule R72). -/
theorem split_fields : ∀ m : Byte,
    m &&& 0x7F = BitVec.ofNat 8 (m.toNat % 128) ∧ m >>> 7 = BitVec.ofNat 8 (m.toNat / 128) ∧
    m &&& 0x7F < 0x80 ∧ m >>> 7 < 0x80 := by decide +kernel

/-- Splitting an 8-bit value and assembling its bytes gives it back (rule R102). -/
theorem assemble_split_byte : ∀ m : Byte,
    (assemble (m &&& 0x7F) (m >>> 7)).setWidth 8 = m ∧ (assemble (m &&& 0x7F) (m >>> 7)).toNat = m.toNat := by decide +kernel

/-- `writeBit` sets one bit and keeps the seven others (rule R101). -/
theorem getLsbD_writeBit (m : Byte) (bit : Nat) (hb : bit < 8) (v : BitVec 1) (k : Nat) (hk : k < 8) :
    (writeBit m bit v).getLsbD k = if k = bit then v == 1 else m.getLsbD k := by
  have all : ∀ (m : Byte) (bit k : Fin 8) (v : BitVec 1),
      (writeBit m bit v).getLsbD k = if k = bit then v == 1 else m.getLsbD k := by decide +kernel
  simpa using all m ⟨bit, hb⟩ ⟨k, hk⟩ v

theorem pinOutOfRange_iff (cfg : Config) (pin : Byte) : pinOutOfRange cfg pin = true ↔ cfg.nPorts ≤ pin.toNat / 8 := by
  simp [pinOutOfRange, (pin_fields pin).1]

theorem channelOutOfRange_iff (cfg : Config) (channel : Byte) :
    channelOutOfRange cfg channel = true ↔ cfg.kChannels ≤ channel.toNat := by
  simp [channelOutOfRange]

/-- Accepting an operation: it is turned away, or ends at once with no byte, or leaves its bytes to be taken (rules R45, R91). -/
theorem acceptOperation_cases (s : State) (op : BitVec 2) (pin arg : Byte) :
    (s.busy.isSome = true ∧ s.acceptOperation op pin arg = s) ∨
    (s.busy = none ∧ (encoderResult s op pin arg).bytes = [] ∧
      s.acceptOperation op pin arg = s.complete (encoderResult s op pin arg)) ∨
    (s.busy = none ∧ (encoderResult s op pin arg).bytes ≠ [] ∧ (encoderResult s op pin arg).status = .ok ∧
      s.acceptOperation op pin arg =
        { s with dout := (encoderResult s op pin arg).dout, busy := some ⟨(encoderResult s op pin arg).bytes, .ok⟩ }) := by
  unfold State.acceptOperation
  by_cases hb : s.busy.isSome = true
  · exact .inl ⟨hb, if_pos hb⟩
  · rw [if_neg hb]
    replace hb : s.busy = none := by simpa using hb
    rcases encoderResult_status s op pin arg with ⟨h, hs⟩ | ⟨h, -, -⟩
    · exact .inr (.inr ⟨hb, h, hs, by rw [if_neg h, hs]⟩)
    · exact .inr (.inl ⟨hb, h, if_pos h⟩)

/-- Taking a byte: nothing is offered, or the last byte goes and the status with it, or a byte goes and others stay (rules R44, R91). -/
theorem takeByte_cases (s : State) :
    (s.busy = none ∧ s.takeByte = s) ∨
    (∃ st, s.busy = some ⟨[], st⟩ ∧ s.takeByte = { s with busy := none, statuses := s.statuses ++ [st] }) ∨
    (∃ b st, s.busy = some ⟨[b], st⟩ ∧
      s.takeByte = { s with busy := none, tx := s.tx ++ [b], statuses := s.statuses ++ [st] }) ∨
    (∃ b c rest st, s.busy = some ⟨b :: c :: rest, st⟩ ∧
      s.takeByte = { s with busy := some ⟨c :: rest, st⟩, tx := s.tx ++ [b] }) := by
  unfold State.takeByte
  rcases hb : s.busy with _ | ⟨bytes, st⟩
  · exact .inl ⟨rfl, rfl⟩
  · rcases bytes with _ | ⟨b, _ | ⟨c, rest⟩⟩
    · exact .inr (.inl ⟨st, rfl, rfl⟩)
    · exact .inr (.inr (.inl ⟨b, st, rfl, rfl⟩))
    · exact .inr (.inr (.inr ⟨b, c, rest, st, rfl, rfl⟩))

end Sys2Proof.Machine
end

