-- ==== Sys2Proof/Laws/Frames.lean ====
section
/-! SUPPORT. Whole frames: what the bytes of a frame with two data bytes, and the bytes of a sysex block, come to together. -/

namespace Sys2Proof.Machine

open Host (Outcome)

/-- A header that carries a nibble: its class, its command and its nibble (rules R61, R62). -/
theorem headerCQ_digital : ∀ n : Index4,
    ¬ headerCQ 0x90 n < 0x80 ∧ headerCQ 0x90 n &&& 0xF0 = 0x90 ∧ (headerCQ 0x90 n).setWidth 4 = n := by decide

theorem headerCQ_analog : ∀ n : Index4,
    ¬ headerCQ 0xE0 n < 0x80 ∧ headerCQ 0xE0 n &&& 0xF0 = 0xE0 ∧ (headerCQ 0xE0 n).setWidth 4 = n := by decide

/-- The ranges of rule R122 as tests on the high nibble. -/
theorem nibble_ranges : ∀ b : Byte,
    ((0x90 ≤ b ∧ b ≤ 0x9F) ↔ b &&& 0xF0 = 0x90) ∧ ((0xE0 ≤ b ∧ b ≤ 0xEF) ↔ b &&& 0xF0 = 0xE0) ∧ (b ≤ 0x7F ↔ b < 0x80) ∧
    (b < 0x80 → b &&& 0xF0 ≠ 0x90 ∧ b &&& 0xF0 ≠ 0xE0 ∧ b ≠ 0xF9 ∧ b ≠ 0xF0) := by decide

/-- A command-class byte outside sysex mode is taken as a header (rule R105). -/
theorem rx_header {s : State} {b : Byte} (hx : s.sysex = false) (h : ¬ b < 0x80) :
    exec (decodeRx s.sysex s.rem b) s = .next (s.takeHeader b) := by
  rw [exec_decodeRx, if_neg (by simp [hx]), if_neg (fun e => h e.2)]

/-- A data-class byte outside sysex mode, with a command pending, is taken as data (rule R105). -/
theorem rx_data {s : State} {b : Byte} (hx : s.sysex = false) (hr : s.rem ≠ 0) (h : b < 0x80) :
    exec (decodeRx s.sysex s.rem b) s = .next (s.takeData b) := by
  rw [exec_decodeRx, if_neg (by simp [hx]), if_pos ⟨hr, h⟩]

theorem feedRx_cons_next {s t : State} {b : Byte} {bs : List Byte} (h : exec (decodeRx s.sysex s.rem b) s = .next t) :
    feedRx (b :: bs) s = feedRx bs t := by
  rw [feedRx_cons, h]

/-- The bytes of a frame with two data bytes, from any state outside sysex mode (rules R107, R108, R121). -/
theorem feedRx_frame {s s1 : State} {h d1 d2 : Byte} (hx : s.sysex = false) (hh : ¬ h < 0x80) (e : s.takeHeader h = s1)
    (hr : s1.rem = 2) (hx1 : s1.sysex = false) (h1 : d1 < 0x80) (h2 : d2 < 0x80) :
    feedRx [h, d1] s = .next (s1.takeData d1) ∧ feedRx [h, d1, d2] s = .next ((s1.takeData d1).takeData d2) := by
  rw [feedRx_cons_next (rx_header hx hh), feedRx_cons_next (rx_header hx hh), e,
    feedRx_cons_next (rx_data hx1 (by rw [hr]; decide) h1), feedRx_cons_next (rx_data hx1 (by rw [hr]; decide) h1),
    feedRx_cons_next (rx_data (by simp [hx1]) (by simp [hr]) h2)]
  exact ⟨rfl, rfl⟩

/-- Payload bytes inside sysex mode: `BUF` takes them while there is room, `SXCNT` counts to 32, and nothing else changes (rules R106,
R123). -/
theorem feedRx_payload (bs : List Byte) : ∀ (s : State), s.Truncates → s.sysex = true → (∀ b ∈ bs, b ≠ 0xF7) →
    ∃ u, feedRx bs s = .next u ∧ u.sysex = true ∧ SameStore s u ∧ SameEncoder s u ∧ SameSent s u ∧
      SameAnswers s u ∧ SameOutside s u ∧ u.chan = s.chan ∧ (s.sxcnt.toNat ≤ 32 → u.sxcnt.toNat = min (s.sxcnt.toNat + bs.length) 32) ∧
      ∀ (i : Nat) (h : i < 32), u.buf[i] = if i < s.sxcnt.toNat then s.buf[i] else bs[i - s.sxcnt.toNat]?.getD s.buf[i] := by
  induction bs with
  | nil => 
    intro s ht hx hb
    refine ⟨s, rfl, hx, ⟨rfl,rfl,rfl,rfl⟩, ⟨rfl,rfl⟩, ⟨rfl,rfl⟩, rfl, ⟨rfl,rfl⟩, rfl, ?_, ?_⟩
    · simp; 
    · simp
  | cons b bs ih =>
    intro s ht hx hb
    have hb1 : ¬ b = 0xF7 := hb b (by simp)
    have hb2 : ∀ x ∈ bs, x ≠ 0xF7 := fun x hx => hb x (by simp [hx])
    by_cases hl : s.sxcnt.toNat < 32
    · have e : exec (decodeRx s.sysex s.rem b) s = .next (s.storePayload b) := by rw [exec_decodeRx, if_pos hx, if_neg hb1, execSysexPayload_store hl]
      obtain ⟨u, h1, h2, h3, h4, h5, h6, h7, h8, h9, h10⟩ := ih (s.storePayload b) (by simpa [State.Truncates] using ht) hx hb2
      rw [feedRx_cons_next e]
      have hs : (s.sxcnt + 1).toNat = s.sxcnt.toNat + 1 := by simp; omega
      rw [storePayload_sxcnt, hs] at h9 h10
      refine ⟨u, h1, h2, h3, h4, h5, h6, h7, h8, fun _ => ?_, fun i h => ?_⟩
      · rw [h9 (by omega)]; simp; omega
      · rw [h10 i h]
        simp only [storePayload_buf]
        by_cases h1 : i < s.sxcnt.toNat
        · rw [if_pos (by omega), if_pos h1]; rw [Vector.getElem_setIfInBounds]; rw [if_neg (by omega)]
        · rw [if_neg h1]
          by_cases h2 : i = s.sxcnt.toNat
          · subst h2; simp
          · rw [if_neg (by omega)]; rw [Vector.getElem_setIfInBounds]; rw [if_neg (by omega)]
            have : i - s.sxcnt.toNat = (i - (s.sxcnt.toNat + 1)) + 1 := by omega
            rw [this]; simp
    · have e : exec (decodeRx s.sysex s.rem b) s = .next s := by rw [exec_decodeRx, if_pos hx, if_neg hb1, execSysexPayload_drop hl ht]
      obtain ⟨u, h1, h2, h3, h4, h5, h6, h7, h8, h9, h10⟩ := ih s ht hx hb2
      rw [feedRx_cons_next e]
      refine ⟨u, h1, h2, h3, h4, h5, h6, h7, h8, fun h => ?_, fun i h => ?_⟩
      · rw [h9 h]; simp; omega
      · rw [h10 i h, if_pos (by omega), if_pos (by omega)]

end Sys2Proof.Machine
end

