-- ==== Sys2Proof/Laws/PerInstr.lean ====
section
/-! SUPPORT. A statement made for each instruction as syntax: what the encoder writes for it lies in its own row of
spec/opcode_table.json, in that row's context (rule R82: "a value `x` belongs to a row when `x & mask == match`"). -/

namespace Sys2Proof.Laws.TableRow

/-- The encoded form of `i` lies in the row of `i`. -/
def Statement (i : Instr) : Prop :=
  (encode i).context = (tableRow i).1 ∧ (encode i).selector &&& (tableRow i).2.2 = (tableRow i).2.1

theorem dataStray (d : Data7) : Statement (.dataStray d) := ⟨rfl, by revert d; decide⟩
theorem unassigned8n (n : Index4) : Statement (.unassigned8n n) := ⟨rfl, by revert n; decide⟩
theorem digitalMessage (n : Index4) : Statement (.digitalMessage n) := ⟨rfl, by revert n; decide⟩
theorem unassignedAn (n : Index4) : Statement (.unassignedAn n) := ⟨rfl, by revert n; decide⟩
theorem unassignedBn (n : Index4) : Statement (.unassignedBn n) := ⟨rfl, by revert n; decide⟩
theorem reportAnalog (n : Index4) : Statement (.reportAnalog n) := ⟨rfl, by revert n; decide⟩
theorem reportDigital (n : Index4) : Statement (.reportDigital n) := ⟨rfl, by revert n; decide⟩
theorem analogMessage (n : Index4) : Statement (.analogMessage n) := ⟨rfl, by revert n; decide⟩
theorem startSysex : Statement .startSysex := ⟨rfl, rfl⟩
theorem unassignedF1 : Statement .unassignedF1 := ⟨rfl, rfl⟩
theorem unassignedF2F3 (x : BitVec 1) : Statement (.unassignedF2F3 x) := ⟨rfl, by revert x; decide⟩
theorem setPinMode : Statement .setPinMode := ⟨rfl, rfl⟩
theorem unassignedF5 : Statement .unassignedF5 := ⟨rfl, rfl⟩
theorem unassignedF6 : Statement .unassignedF6 := ⟨rfl, rfl⟩
theorem endSysex : Statement .endSysex := ⟨rfl, rfl⟩
theorem unassignedF8 : Statement .unassignedF8 := ⟨rfl, rfl⟩
theorem reportVersion : Statement .reportVersion := ⟨rfl, rfl⟩
theorem unassignedFAFB (x : BitVec 1) : Statement (.unassignedFAFB x) := ⟨rfl, by revert x; decide⟩
theorem unassignedFCFD (x : BitVec 1) : Statement (.unassignedFCFD x) := ⟨rfl, by revert x; decide⟩
theorem unassignedFE : Statement .unassignedFE := ⟨rfl, rfl⟩
theorem systemReset : Statement .systemReset := ⟨rfl, rfl⟩
theorem dataByte (d : Data7) : Statement (.dataByte d) := ⟨rfl, by revert d; decide⟩
theorem endSysexBlock : Statement .endSysexBlock := ⟨rfl, rfl⟩
theorem sysexPayload (b : Byte) : Statement (.sysexPayload b) := ⟨rfl, by simp [tableRow, encode, Code.selector]⟩
theorem setDigitalPort (p : Index4) (v : Value14) : Statement (.setDigitalPort p v) := ⟨rfl, by simp [tableRow, encode, Code.selector]⟩
theorem setAnalogChannel (c : Index4) (v : Value14) : Statement (.setAnalogChannel c v) := ⟨rfl, by simp [tableRow, encode, Code.selector]⟩
theorem setVersion (j i : Data7) : Statement (.setVersion j i) := ⟨rfl, by simp [tableRow, encode, Code.selector]⟩
theorem pinMode (p m : Byte) : Statement (.pinMode p m) := ⟨rfl, by simp [tableRow, encode, Code.selector]⟩
theorem digitalWrite (p : Byte) (v : BitVec 1) : Statement (.digitalWrite p v) := ⟨rfl, by simp [tableRow, encode, Code.selector]⟩
theorem analogWrite (p v : Byte) : Statement (.analogWrite p v) := ⟨rfl, by simp [tableRow, encode, Code.selector]⟩
theorem requestReports : Statement .requestReports := ⟨rfl, rfl⟩
theorem readDigitalPin (p : Byte) : Statement (.readDigitalPin p) := ⟨rfl, by simp [tableRow, encode, Code.selector]⟩
theorem readAnalogChannel (c : Byte) : Statement (.readAnalogChannel c) := ⟨rfl, by simp [tableRow, encode, Code.selector]⟩
theorem readVersion : Statement .readVersion := ⟨rfl, rfl⟩
theorem queryUnassigned : Statement .queryUnassigned := ⟨rfl, rfl⟩

end Sys2Proof.Laws.TableRow
end

