-- ==== Sys2Proof/Tests/Slice0.lean ====
section
/-! SUPPORT. The model's own tests. Expected results are those of spec/95_test_vectors.md (the vector is named at each test) or are worked
by hand from the rule named. First the well-formedness smoke, then words written out bit by bit, then single steps on small states,
then one witness for the hypotheses of each statement in Certificates/Slice0/Obligations.lean. -/

namespace Sys2Proof.Tests

open Sys2Proof Sys2Proof.Machine Host

/-! ### Well-formedness: an ill-formed term for each check -/

/-- Rule R70: a payload byte is "any value except `0xF7`". -/
theorem test_wf_refuses_end_sysex_as_payload : (Instr.sysexPayload 0xF7).wf = false := by decide

theorem test_wf_accepts_other_payload : (Instr.sysexPayload 0xF6).wf = true ∧ (Instr.sysexPayload 0xF8).wf = true := by decide

/-- Rules R6 and R7: 1 to 16 ports, 1 to 16 channels. -/
theorem test_wf_refuses_sizes_out_of_range :
    ({ Config.default with nPorts := 0 } : Config).wf = false ∧ ({ Config.default with nPorts := 17 } : Config).wf = false ∧
    ({ Config.default with kChannels := 0 } : Config).wf = false ∧ ({ Config.default with kChannels := 17 } : Config).wf = false := by
  decide

theorem test_wf_accepts_sizes_at_the_ends :
    ({ Config.default with nPorts := 1, kChannels := 16 } : Config).wf = true ∧
    ({ Config.default with nPorts := 16, kChannels := 1 } : Config).wf = true := by decide

/-! ### Decoding: words written out from 30_encoding.md (rules R65 to R70, R73, R78, R79) -/

/-- Context `wire_header`, channel-qualified rows, bit 7 first. -/
theorem test_decode_channel_qualified :
    decode (.wire .header 0b00000101) = .ok (.dataStray 0b0000101) ∧
    decode (.wire .header 0b10001111) = .ok (.unassigned8n 0b1111) ∧
    decode (.wire .header 0b10010001) = .ok (.digitalMessage 0b0001) ∧
    decode (.wire .header 0b10100101) = .ok (.unassignedAn 0b0101) ∧
    decode (.wire .header 0b10110000) = .ok (.unassignedBn 0b0000) ∧
    decode (.wire .header 0b11000011) = .ok (.reportAnalog 0b0011) ∧
    decode (.wire .header 0b11010001) = .ok (.reportDigital 0b0001) ∧
    decode (.wire .header 0b11101111) = .ok (.analogMessage 0b1111) := by decide

/-- Context `wire_header`, the meta-commands. -/
theorem test_decode_meta :
    decode (.wire .header 0b11110000) = .ok .startSysex ∧ decode (.wire .header 0b11110001) = .ok .unassignedF1 ∧
    decode (.wire .header 0b11110010) = .ok (.unassignedF2F3 0) ∧ decode (.wire .header 0b11110011) = .ok (.unassignedF2F3 1) ∧
    decode (.wire .header 0b11110100) = .ok .setPinMode ∧ decode (.wire .header 0b11110101) = .ok .unassignedF5 ∧
    decode (.wire .header 0b11110110) = .ok .unassignedF6 ∧ decode (.wire .header 0b11110111) = .ok .endSysex ∧
    decode (.wire .header 0b11111000) = .ok .unassignedF8 ∧ decode (.wire .header 0b11111001) = .ok .reportVersion ∧
    decode (.wire .header 0b11111010) = .ok (.unassignedFAFB 0) ∧ decode (.wire .header 0b11111011) = .ok (.unassignedFAFB 1) ∧
    decode (.wire .header 0b11111100) = .ok (.unassignedFCFD 0) ∧ decode (.wire .header 0b11111101) = .ok (.unassignedFCFD 1) ∧
    decode (.wire .header 0b11111110) = .ok .unassignedFE ∧ decode (.wire .header 0b11111111) = .ok .systemReset := by decide

/-- Contexts `wire_data` and `wire_sysex`. -/
theorem test_decode_data_and_sysex :
    decode (.wire .data 0b01111111) = .ok (.dataByte 0b1111111) ∧
    decode (.wire .data 0b10000000) = .error .commandByteInDataSpace ∧
    decode (.wire .sysex 0b11110111) = .ok .endSysexBlock ∧
    decode (.wire .sysex 0b11110000) = .ok (.sysexPayload 0b11110000) := by decide

/-- Context `dispatch`: format CQ2 with the value bits of `0x1FF` (L1-2), format CQ2 with `0x20` (L1-1), format M2V (L1-3). -/
theorem test_decode_dispatch :
    decode (.dispatch 0b11100000 3 0b01111111 0b00000011) = .ok (.setAnalogChannel 3 511) ∧
    decode (.dispatch 0b10010000 1 0b00100000 0b00000000) = .ok (.setDigitalPort 1 0x20) ∧
    decode (.dispatch 0b11111001 0 0b00000010 0b00001001) = .ok (.setVersion 9 2) ∧
    decode (.dispatch 0b00000000 0 0 0) = .error .noMultiByteCommand := by decide

/-- Contexts `cmd_port` and `query_port`; `arg[7:1]` of `digitalWrite` is ignored (L2-C: `0x02` is value 0, `0xFF` is value 1). -/
theorem test_decode_ports :
    decode (.command 0b00 13 1) = .ok (.pinMode 13 1) ∧ decode (.command 0b01 13 0x02) = .ok (.digitalWrite 13 0) ∧
    decode (.command 0b01 13 0xFF) = .ok (.digitalWrite 13 1) ∧ decode (.command 0b10 9 200) = .ok (.analogWrite 9 200) ∧
    decode (.command 0b11 77 88) = .ok .requestReports ∧ decode (.query 0b00 13) = .ok (.readDigitalPin 13) ∧
    decode (.query 0b01 3) = .ok (.readAnalogChannel 3) ∧ decode (.query 0b10 99) = .ok .readVersion ∧
    decode (.query 0b11 99) = .ok .queryUnassigned := by decide

/-! ### Small states and single steps -/

/-- What an outcome holds, or the state at reset where it holds none: only for tests whose outcome is a next state. -/
def got (o : Outcome State Fault Refusal) : State :=
  match o with
  | .next t => t
  | .fault _ | .refused _ => State.reset

/-- An outcome is the next state `t`. -/
def answers (o : Outcome State Fault Refusal) (t : State) : Bool :=
  match o with
  | .next u => decide (u = t)
  | .fault _ | .refused _ => false

/-- An outcome is the fault at the buffer's end. -/
def overflows (o : Outcome State Fault Refusal) : Bool :=
  match o with
  | .fault .sysexOverflow => true
  | .next _ | .refused _ => false

/-- Waiting for the two data bytes of a command. -/
def awaiting (c : Byte) (ch : Index4) : State := { State.reset with cmd := c, chan := ch, rem := 2 }

/-- Waiting for the second data byte of a command, with the first in `BUF[0]`. -/
def halfway (c : Byte) (ch : Index4) (first : Byte) : State :=
  { State.reset with cmd := c, chan := ch, rem := 1, buf := State.reset.buf.set 0 first }

/-- Inside a sysex block with `n` bytes stored. -/
def inSysex (n : BitVec 6) : State := { State.reset with sysex := true, sxcnt := n }

/-- A machine of two ports and six channels. -/
def small : State := State.construct { Config.default with nPorts := 2, kChannels := 6 }

/-- A machine whose parameter asks for a fault at the buffer's end, inside a sysex block with `n` bytes stored. -/
def faulting (n : BitVec 6) : State :=
  { State.construct { Config.default with sysexOverflow := .fault } with sysex := true, sxcnt := n }

/-- `DOUT[1]` as given, everything else at reset. -/
def mirrored (m : Byte) : State := { State.reset with dout := setReg State.reset.dout 1 m }

/-- `pinMode(13, 1)` accepted and no byte of it taken. -/
def emitting : State := State.reset.acceptOperation 0 13 1

/-- L1-5: `0x91` is `DIGITAL_MESSAGE` with channel 1. -/
theorem test_digital_header : answers (exec (.digitalMessage 1) State.reset) (awaiting 0x90 1) = true := by decide

/-- L2-H: `E3 E4` asks for two data bytes of channel 4. -/
theorem test_analog_header_replaces : answers (exec (.analogMessage 4) (awaiting 0xE0 3)) (awaiting 0xE0 4) = true := by decide

/-- L1-5: `0xF9` leaves `CHAN` at 1. -/
theorem test_version_header_keeps_channel : answers (exec .reportVersion (awaiting 0x90 1)) (awaiting 0xF9 1) = true := by decide

/-- L2-H: `E3 F0` abandons the frame. -/
theorem test_start_sysex_abandons :
    (fun t : State => (t.sysex, t.sxcnt, t.rem, t.cmd)) (got (exec .startSysex (awaiting 0xE0 3))) = (true, 0, 0, 0) := by decide

/-- L2-H: `91 05 FF` keeps the pending frame. -/
theorem test_system_reset_keeps_frame : answers (exec .systemReset (halfway 0x90 1 5)) (halfway 0x90 1 5) = true := by decide

/-- L2-F: the first data byte goes to `BUF[0]` and changes no register of the store. -/
theorem test_first_data_byte : answers (exec (.dataByte 0x20) (awaiting 0x90 1)) (halfway 0x90 1 0x20) = true := by decide

/-- L1-2: `E3 7F 03` gives `AIN[3]` = 511. -/
theorem test_second_data_byte_analog :
    (fun t : State => (getReg t.ain 3, t.rem, t.cmd)) (got (exec (.dataByte 3) (halfway 0xE0 3 0x7F))) = (511, 0, 0) := by decide

/-- L2-F: `92 00 02` drops bit 8 and `91 05` `01` gives `0x85`. -/
theorem test_second_data_byte_digital :
    getReg (got (exec (.dataByte 2) (halfway 0x90 2 0))).din 2 = 0x00 ∧
    getReg (got (exec (.dataByte 1) (halfway 0x90 1 5))).din 1 = 0x85 := by decide

/-- L1-3: `F9 02 09` gives major 9, minor 2. -/
theorem test_second_data_byte_version :
    (fun t : State => (t.vmaj, t.vmin)) (got (exec (.dataByte 9) (halfway 0xF9 0 2))) = (9, 2) := by decide

/-- L2-I: a payload byte at offset 31 is stored, the next is dropped. -/
theorem test_payload_at_the_end_of_the_buffer :
    (fun t : State => (t.buf[31], t.sxcnt, t.sysex)) (got (exec (.sysexPayload 0xF9) (inSysex 31))) = (0xF9, 32, true) ∧
    answers (exec (.sysexPayload 0xF9) (inSysex 32)) (inSysex 32) = true := by decide

/-- Rule R114: the end of a block keeps `SXCNT`. -/
theorem test_end_of_block :
    (fun t : State => (t.sysex, t.sxcnt, t.rem, t.cmd)) (got (exec .endSysexBlock (inSysex 9))) = (false, 9, 0, 0) := by decide

/-- Rules R83 and R84: the low 8 bits, all 14 bits; and in a machine of two ports and six channels (L2-F) a dropped write. -/
theorem test_store_writes :
    getReg (got (exec (.setDigitalPort 1 0x120) State.reset)).din 1 = 0x20 ∧
    getReg (got (exec (.setAnalogChannel 0 16383) State.reset)).ain 0 = 16383 ∧
    answers (exec (.setDigitalPort 2 0xFF) small) small = true ∧ answers (exec (.setAnalogChannel 6 1) small) small = true := by decide

theorem test_set_version : (fun t : State => (t.vmaj, t.vmin)) (got (exec (.setVersion 4 3) State.reset)) = (4, 3) := by decide

/-- L2-B: `pinMode(200, 0)`. -/
theorem test_pin_mode :
    (fun t : State => (t.tx, t.statuses)) (got (exec (.pinMode 200 0) State.reset)) = ([0xF4, 0xC8, 0x00], [.ok]) := by decide

/-- L2-C: prior `A0`, `digitalWrite(13, 0)`; prior `20`, `digitalWrite(15, 1)`. -/
theorem test_digital_write :
    (fun t : State => (t.tx, getReg t.dout 1)) (got (exec (.digitalWrite 13 0) (mirrored 0xA0))) = ([0x91, 0x00, 0x01], 0x80) ∧
    (fun t : State => (t.tx, getReg t.dout 1)) (got (exec (.digitalWrite 15 1) (mirrored 0x20))) = ([0x91, 0x20, 0x01], 0xA0) := by
  decide

/-- L2-C: `digitalWrite(128, 1)`, and `digitalWrite(16, 1)` with two ports. -/
theorem test_digital_write_out_of_bounds :
    answers (exec (.digitalWrite 128 1) State.reset) { State.reset with statuses := [.oob] } = true ∧
    answers (exec (.digitalWrite 16 1) small) { small with statuses := [.oob] } = true := by decide

/-- L2-D: `analogWrite(9, 200)` and `analogWrite(255, 255)`. -/
theorem test_analog_write :
    (got (exec (.analogWrite 9 200) State.reset)).tx = [0xF4, 0x09, 0x03, 0xE9, 0x48, 0x01] ∧
    (got (exec (.analogWrite 255 255) State.reset)).tx = [0xF4, 0xFF, 0x03, 0xEF, 0x7F, 0x01] := by decide

/-- L2-E. -/
theorem test_request_reports :
    (got (exec .requestReports small)).tx =
      [0xC0, 0x01, 0xC1, 0x01, 0xC2, 0x01, 0xC3, 0x01, 0xC4, 0x01, 0xC5, 0x01, 0xD0, 0x01, 0xD1, 0x01] := by decide

/-- L2-A: `DIN[1]` = `0xA1`. -/
theorem test_read_digital_pin :
    (got (exec (.readDigitalPin 13) { State.reset with din := setReg State.reset.din 1 0xA1 })).answers = [⟨.ok, 1⟩] ∧
    (got (exec (.readDigitalPin 14) { State.reset with din := setReg State.reset.din 1 0xA1 })).answers = [⟨.ok, 0⟩] ∧
    (got (exec (.readDigitalPin 128) State.reset)).answers = [⟨.oob, 0⟩] := by decide

/-- L2-A: `AIN[15]` = 16383. -/
theorem test_read_analog_channel :
    (got (exec (.readAnalogChannel 15) { State.reset with ain := setReg State.reset.ain 15 16383 })).answers = [⟨.ok, 16383⟩] ∧
    (got (exec (.readAnalogChannel 16) State.reset)).answers = [⟨.oob, 0⟩] := by decide

/-- L1-3: (9, 2) reads as 1154; L2-A: `q` = 3 answers (OK, 0). -/
theorem test_read_version :
    (got (exec .readVersion { State.reset with vmaj := 9, vmin := 2 })).answers = [⟨.ok, 1154⟩] ∧
    (got (exec .queryUnassigned State.reset)).answers = [⟨.ok, 0⟩] := by decide

/-- L2-G: bytes that do nothing in `IDLE`. -/
theorem test_ignored_bytes :
    answers (feedRx [0x05, 0x7F, 0xF4, 0x0D, 0x01, 0xC0, 0x01, 0xD1, 0x01, 0xFF, 0xF7, 0x80, 0xA5, 0xB0, 0xF1, 0xF8, 0xFA, 0xFE]
      State.reset) State.reset = true := by decide

/-- L1-1: `RX: 91 20 00`, byte by byte, then pins 12, 13, 14. -/
theorem test_digital_frame :
    (got (feed [.port (.rx 0x91), .port (.rx 0x20), .port (.rx 0x00), .port (.query 0 12), .port (.query 0 13), .port (.query 0 14)]
      State.reset)).answers = [⟨.ok, 0⟩, ⟨.ok, 1⟩, ⟨.ok, 0⟩] := by decide

/-- L1-6: command codes inside a sysex block are payload. -/
theorem test_sysex_containment :
    (fun t : State => (getReg t.din 0, getReg t.ain 0, t.vmaj, t.vmin, t.sxcnt, t.buf[8], t.sysex))
      (got (feedRx [0xF0, 0x90, 0x01, 0x01, 0xE0, 0x7F, 0x7F, 0xF9, 0x01, 0x02, 0xF7] State.reset)) =
      (0, 0, 0, 0, 9, 0x02, false) := by decide

/-- Rule R49: at one edge the Transport takes a byte; the last one pulses `cmd_done` with the status. -/
def tick : PinsIn :=
  { rst := false, rxValid := false, rxData := 0, txReady := true, cmdValid := false, cmdOp := 0, cmdPin := 0, cmdArg := 0
    qSel := 3, qIdx := 0 }

theorem test_pins :
    cmdReady State.reset = true ∧ cmdReady emitting = false ∧ txOffered emitting = some 0xF4 ∧ cmdDone tick emitting = none ∧
    txOffered (got (feed [.edge tick, .edge tick] emitting)) = some 0x01 ∧
    cmdDone tick (got (feed [.edge tick, .edge tick] emitting)) = some .ok ∧
    (got (feed [.edge tick, .edge tick, .edge tick] emitting)).tx = [0xF4, 0x0D, 0x01] := by decide

/-- Rule R134: the codes of the statuses. -/
theorem test_status_codes : Status.ok.code = 0 ∧ Status.oob.code = 1 := by decide

/-- Log entry 5: the number `0x91` of a header row runs as the first instruction after reset, and the number of a select code too. -/
theorem test_table_word :
    decodeTableWord 8 0x91 = some (.digitalMessage 1) ∧
    (got (step (State.reset.withFetchWord 8 0x91))).cmd = 0x90 ∧
    decodeTableWord 24 0x010D00 = some (.pinMode 13 1) ∧ decodeTableWord 16 0x0302 = some .readVersion := by decide

/-! ### Witnesses: for each statement with hypotheses, states and operands that meet them -/

theorem witness_HeaderMapFollowsRule73 :
    (0x7F : Byte).toNat ≤ 0x7F ∧ decodeHeader 0x7F = .dataStray 0x7F ∧ decodeHeader 0x00 = .dataStray 0x00 ∧
    decodeHeader 0x80 = .unassigned8n 0 ∧ decodeHeader 0x8F = .unassigned8n 15 ∧
    decodeHeader 0x90 = .digitalMessage 0 ∧ decodeHeader 0x9F = .digitalMessage 15 ∧
    decodeHeader 0xA0 = .unassignedAn 0 ∧ decodeHeader 0xAF = .unassignedAn 15 ∧
    decodeHeader 0xB0 = .unassignedBn 0 ∧ decodeHeader 0xBF = .unassignedBn 15 ∧
    decodeHeader 0xC0 = .reportAnalog 0 ∧ decodeHeader 0xCF = .reportAnalog 15 ∧
    decodeHeader 0xD0 = .reportDigital 0 ∧ decodeHeader 0xDF = .reportDigital 15 ∧
    decodeHeader 0xE0 = .analogMessage 0 ∧ decodeHeader 0xEF = .analogMessage 15 ∧
    decodeHeader 0xF2 = .unassignedF2F3 0 ∧ decodeHeader 0xF3 = .unassignedF2F3 1 ∧
    decodeHeader 0xFA = .unassignedFAFB 0 ∧ decodeHeader 0xFB = .unassignedFAFB 1 ∧
    decodeHeader 0xFC = .unassignedFCFD 0 ∧ decodeHeader 0xFD = .unassignedFCFD 1 ∧
    decodeHeader 0xFE = .unassignedFE ∧ decodeHeader 0xFF = .systemReset := by decide

theorem witness_ReceivedByteIsTakenByOneArm :
    rxSpace true 0 0x90 = .sysex ∧ rxSpace false 1 0x00 = .data ∧ rxSpace false 2 0x7F = .data ∧
    rxSpace false 0 0x7F = .header ∧ rxSpace false 2 0x80 = .header := by decide

theorem witness_DecodeOfEncodeIsTheInstruction :
    (Instr.sysexPayload 0xF8).wf = true ∧ decode (encode (.sysexPayload 0xF8)) = .ok (.sysexPayload 0xF8) ∧
    decode (encode (.setAnalogChannel 15 16383)) = .ok (.setAnalogChannel 15 16383) := by decide

theorem witness_EncodeOfDecodedByteIsTheByte :
    decode (.wire .data 0x7F) = .ok (.dataByte 0x7F) ∧ encode (.dataByte 0x7F) = .wire .data 0x7F ∧
    decode (.wire .sysex 0xF6) = .ok (.sysexPayload 0xF6) ∧ decode (.wire .header 0xF3) = .ok (.unassignedF2F3 1) := by decide

theorem witness_SplitAndAssembleAreInverse :
    (0x7F : Byte).toNat < 128 ∧ (assemble 0x7F 0x7F).toNat = 16383 ∧ splitLow 0x3FFF = 0x7F ∧ splitHigh 0x3FFF = 0x7F := by decide

theorem witness_StepRunsTheDecodedInstruction :
    (State.reset.offer (.port (.command 0 13 1))).inputs = [.port (.command 0 13 1)] ∧
    (State.reset.offer (.port (.command 0 13 1))).busy = none ∧
    (emitting.offer (.port (.rx 0x91))).inputs = [.port (.rx 0x91)] ∧ emitting.busy ≠ none := by decide

theorem witness_StepRunsTheDecodedInstruction_while_busy :
    ∀ op pin arg, (Transaction.rx 0x91) ≠ .command op pin arg := by intro _ _ _ h; cases h

theorem witness_NothingOfferedChangesNothing : State.reset.inputs = [] := rfl

theorem witness_BusyCommandPortAcceptsNothing :
    (emitting.offer (.port (.command 1 13 1))).busy = some ⟨[0xF4, 13, 1], .ok⟩ ∧
    (emitting.offer (.port (.command 1 13 1))).inputs = [.port (.command 1 13 1)] ∧
    (emitting.offer (.accept 1 13 1)).inputs = [.accept 1 13 1] := by decide

theorem witness_PlacedTableWordRunsNext : decodeTableWord 8 0xF0 = some .startSysex := by decide

theorem witness_OnlyTheOverflowParameterStopsAStep :
    State.reset.Truncates ∧ overflows (step ((faulting 32).offer (.port (.rx 0x00)))) = true ∧
    (faulting 32).cfg.sysexOverflow = .fault := by decide

theorem witness_ResetPutsEveryRegisterAtItsResetValue :
    (emitting.offer (.reset [.rx 0x91])).inputs = [.reset [.rx 0x91]] := by decide

theorem witness_EveryStepKeepsTheInvariant :
    (halfway 0x90 1 5).Inv ∧ ((halfway 0x90 1 5).offer (.port (.rx 0x01))).Inv ∧ small.Inv ∧ (inSysex 32).Inv ∧ emitting.Inv :=
  ⟨by decide, by decide, by decide, by decide, by decide⟩

theorem witness_EveryStepKeepsTheInvariant_next :
    ∃ t, step ((halfway 0x90 1 5).offer (.port (.rx 0x01))) = .next t := ⟨_, rfl⟩

theorem witness_SysexModeFollowsStep1 :
    (inSysex 31).sysex = true ∧ (inSysex 31).Truncates ∧ (inSysex 31).sxcnt.toNat < 32 ∧ (0xF6 : Byte) ≠ 0xF7 ∧
    (inSysex 32).sysex = true ∧ (inSysex 32).Truncates ∧ 32 ≤ (inSysex 32).sxcnt.toNat := by decide

theorem witness_SysexOverflowParameterFaults :
    (faulting 32).cfg.sysexOverflow = .fault ∧ 32 ≤ (faulting 32).sxcnt.toNat ∧ (faulting 31).sxcnt.toNat < 32 := by decide

theorem witness_PendingDataFollowsStep2 :
    (awaiting 0x90 15).sysex = false ∧ (0x7F : Byte).toNat < 128 ∧ (awaiting 0x90 15).rem = 2 ∧
    (halfway 0x90 15 0x7F).rem = 1 ∧ (halfway 0x90 15 0x7F).cmd = 0x90 ∧ (halfway 0xE0 15 0x7F).cmd = 0xE0 ∧
    (halfway 0xF9 0 0x7F).cmd = 0xF9 ∧ (halfway 0xF9 0 0x7F).sysex = false := by decide

theorem witness_HeaderFollowsStep3 :
    State.reset.sysex = false ∧ State.reset.rem = 0 ∧ (halfway 0x90 1 5).sysex = false ∧ 128 ≤ (0x80 : Byte).toNat ∧
    (0x9F : Byte) &&& 0xF0 = 0x90 ∧ (0xE0 : Byte) &&& 0xF0 = 0xE0 ∧
    ((0x7F : Byte) &&& 0xF0 ≠ 0x90 ∧ (0x7F : Byte) &&& 0xF0 ≠ 0xE0) := by decide

theorem witness_SessionBytesComplete :
    State.reset.Truncates ∧ (halfway 0x90 1 5).rem = 1 ∧ (awaiting 0x90 1).rem = 2 := by decide

theorem witness_ReceivedSystemResetResetsNothing : State.reset.sysex = false ∧ (inSysex 0).sysex = true := by decide

theorem witness_DigitalMessageFrameWritesThePort :
    (halfway 0xE0 3 0x7F).sysex = false ∧ (0x7F : Byte).toNat < 128 ∧ (0x00 : Byte).toNat < 128 := by decide

theorem witness_AnalogMessageFrameWritesTheChannel :
    (halfway 0x90 3 0x7F).sysex = false ∧ (0x7F : Byte).toNat < 128 ∧ (0x00 : Byte).toNat < 128 := by decide

theorem witness_ReportVersionFrameWritesBothNumbers :
    (awaiting 0xE0 1).sysex = false ∧ (0x7F : Byte).toNat < 128 ∧ (0x00 : Byte).toNat < 128 := by decide

theorem witness_CommandByteWhilePending :
    (halfway 0x90 1 5).sysex = false ∧ (halfway 0x90 1 5).rem = 1 ∧ (awaiting 0x90 1).rem = 2 ∧ 128 ≤ (0x80 : Byte).toNat ∧
    (0x90 ≤ (0x9F : Byte).toNat ∧ (0x9F : Byte).toNat ≤ 0x9F) ∧ (0xE0 ≤ (0xE0 : Byte).toNat ∧ (0xE0 : Byte).toNat ≤ 0xEF) ∧
    (0x8F : Byte).toNat ≤ 0x8F ∧ (0xA0 ≤ (0xDF : Byte).toNat ∧ (0xDF : Byte).toNat ≤ 0xDF) ∧
    (0xF1 ≤ (0xF1 : Byte).toNat ∧ (0xF1 : Byte).toNat ≠ 0xF9) ∧ 0xF1 ≤ (0xFF : Byte).toNat ∧
    (halfway 0x90 1 5).Truncates ∧ (∀ x ∈ [(0x01 : Byte), 0xF0], x ≠ 0xF7) := by decide

theorem witness_IgnoredCommandInsideAFrameIsTransparent :
    State.reset.sysex = false ∧ (0x90 ≤ (0x91 : Byte).toNat ∧ (0x91 : Byte).toNat ≤ 0x9F) ∧
    (0xE0 ≤ (0xEF : Byte).toNat ∧ (0xEF : Byte).toNat ≤ 0xEF) ∧ (5 : Byte).toNat < 128 ∧ 128 ≤ (0xFF : Byte).toNat ∧
    ¬ (0x90 ≤ (0xFF : Byte).toNat ∧ (0xFF : Byte).toNat ≤ 0x9F) ∧ ¬ (0xE0 ≤ (0xFF : Byte).toNat ∧ (0xFF : Byte).toNat ≤ 0xEF) ∧
    (0xFF : Byte) ≠ 0xF9 ∧ (0xFF : Byte) ≠ 0xF0 := by decide

theorem witness_NamedStatesFollowTheTransitionTable :
    (halfway 0xF9 4 5).Inv ∧ ∃ t, exec (decodeRx (halfway 0xF9 4 5).sysex (halfway 0xF9 4 5).rem 0x7F) (halfway 0xF9 4 5) = .next t :=
  ⟨by decide, _, rfl⟩

theorem witness_StoreIsWrittenOnlyByASecondDataByte :
    ∃ t, step ((halfway 0x90 1 5).offer (.port (.rx 0x01))) = .next t ∧
      ¬ SameStore ((halfway 0x90 1 5).offer (.port (.rx 0x01))) t := ⟨_, rfl, by decide⟩

theorem witness_DecoderStepsStayApartFromTheEncoder :
    ∃ t, exec (decodeRx (halfway 0x90 1 5).sysex (halfway 0x90 1 5).rem 0x01) (halfway 0x90 1 5) = .next t := ⟨_, rfl⟩

theorem witness_SysexBlockIsContained :
    (halfway 0x90 1 5).Truncates ∧ (halfway 0x90 1 5).sysex = false ∧
    (∀ b ∈ List.replicate 33 (0xF9 : Byte), b ≠ 0xF7) ∧ (∀ b ∈ ([] : List Byte), b ≠ 0xF7) := by decide

/-- L1-4, the three frames and the block. -/
theorem witness_CompleteCommandBytesAreIdempotent :
    State.reset.isIdle = true ∧ ∃ t, feedRx [0x91, 0x20, 0x00, 0xF9, 0x02, 0x09, 0xF0, 0x01, 0xF7] State.reset = .next t ∧
      t.isIdle = true := ⟨by decide, _, rfl, by decide⟩

theorem witness_AgreeingSessionsAreIndistinguishable :
    State.reset.Inv ∧ State.reset.Truncates ∧
    ({ State.reset with chan := 7, sxcnt := 5, buf := State.reset.buf.set 0 0xFF } : State).Inv ∧
    Agree State.reset { State.reset with chan := 7, sxcnt := 5, buf := State.reset.buf.set 0 0xFF } :=
  ⟨by decide, by decide, by decide, by decide⟩

theorem witness_DecoderRefinesTheReducedMachine : (halfway 0xE0 15 0x7F).Inv ∧ (halfway 0xE0 15 0x7F).Truncates := by decide

theorem witness_SetDigitalPortWritesLowEightBits :
    (1 : Index4).toNat < small.cfg.nPorts ∧ small.cfg.nPorts ≤ (2 : Index4).toNat ∧ (15 : Index4).toNat < State.reset.cfg.nPorts := by
  decide

theorem witness_SetAnalogChannelWritesAllBits :
    (5 : Index4).toNat < small.cfg.kChannels ∧ small.cfg.kChannels ≤ (6 : Index4).toNat ∧
    (15 : Index4).toNat < State.reset.cfg.kChannels := by decide

theorem witness_DispatchRunsTheSelectedMicroOperation :
    decodeDispatch (halfway 0x90 1 5).cmd 1 5 0 = .ok (.setDigitalPort 1 5) ∧
    decodeDispatch State.reset.cmd 0 0 0 = .error .noMultiByteCommand := by decide

theorem witness_DigitalWriteUpdatesTheMirrorAndSendsThePort :
    State.reset.cfg.wf = true ∧ (127 : Byte).toNat / 8 < State.reset.cfg.nPorts ∧ State.reset.cfg.nPorts ≤ (128 : Byte).toNat / 8 ∧
    small.cfg.wf = true ∧ (15 : Byte).toNat / 8 < small.cfg.nPorts ∧ small.cfg.nPorts ≤ (16 : Byte).toNat / 8 := by decide

theorem witness_EncoderByteCountsAndClasses :
    (127 : Byte).toNat / 8 < State.reset.cfg.nPorts ∧ State.reset.cfg.nPorts ≤ (128 : Byte).toNat / 8 ∧
    (encoderResult State.reset 3 0 0).bytes[15]? = some 0x01 ∧ (encoderResult State.reset 3 0 0).bytes[0]? = some 0xC0 := by decide

theorem witness_EncoderStepsStayApartFromTheDecoder :
    (halfway 0x90 1 5).cfg = State.reset.cfg ∧ (halfway 0x90 1 5).dout = State.reset.dout := by decide

theorem witness_MirrorIsWrittenOnlyByDigitalWrite :
    ∃ t, exec (.digitalWrite 13 1) State.reset = .next t ∧ t.dout ≠ State.reset.dout := ⟨_, rfl, by decide⟩

theorem witness_OnlyTheEncoderTransmits :
    (∃ t, step (State.reset.offer (.port (.command 0 13 1))) = .next t ∧ t.tx ≠ []) ∧
    (∃ t, step (emitting.offer .take) = .next t ∧ t.tx = [0xF4]) ∧
    (∃ t, step (emitting.offer (.edge tick)) = .next t ∧ t.tx = [0xF4]) :=
  ⟨⟨_, rfl, by decide⟩, ⟨_, rfl, by decide⟩, ⟨_, rfl, by decide⟩⟩

theorem witness_ByteByByteOperationEqualsTheAtomicOne : State.reset.busy = none := rfl

theorem witness_ResetTruncatesTheOperationInProgress :
    State.reset.busy = none ∧ 0 < (encoderResult State.reset 0 13 1).bytes.length ∧
    2 < (encoderResult State.reset 0 13 1).bytes.length := by decide

theorem witness_ReadDigitalPinAnswersTheBit :
    (127 : Byte).toNat / 8 < State.reset.cfg.nPorts ∧ State.reset.cfg.nPorts ≤ (128 : Byte).toNat / 8 := by decide

theorem witness_ReadAnalogChannelAnswersTheValue :
    (15 : Byte).toNat < State.reset.cfg.kChannels ∧ State.reset.cfg.kChannels ≤ (16 : Byte).toNat := by decide

theorem witness_OutOfBoundsOnlyInThreeOperations :
    (∃ t, exec (.digitalWrite 128 0) State.reset = .next t ∧ t.statuses = State.reset.statuses ++ [.oob]) ∧
    (∃ t, exec (.readDigitalPin 128) State.reset = .next t ∧ t.answers = State.reset.answers ++ [⟨.oob, 0⟩]) ∧
    (∃ t, exec (.readAnalogChannel 16) State.reset = .next t ∧ t.answers = State.reset.answers ++ [⟨.oob, 0⟩]) :=
  ⟨⟨_, rfl, by decide⟩, ⟨_, rfl, by decide⟩, ⟨_, rfl, by decide⟩⟩

theorem witness_DecoderAndEncoderStepsCommute :
    (∃ op pin arg, (Input.port (.command 1 13 1)) = .port (.command op pin arg) ∨ (Input.port (.command 1 13 1)) = .accept op pin arg) ∧
    (∃ op pin arg, (Input.accept 1 13 1) = .port (.command op pin arg) ∨ (Input.accept 1 13 1) = .accept op pin arg) :=
  ⟨⟨1, 13, 1, .inl rfl⟩, ⟨1, 13, 1, .inr rfl⟩⟩

theorem witness_DigitalWriteRoundTrip :
    (halfway 0xE0 3 1).cfg.wf = true ∧ (halfway 0xE0 3 1).sysex = false ∧ (127 : Byte).toNat / 8 < (halfway 0xE0 3 1).cfg.nPorts := by
  decide

theorem witness_AnalogWriteRoundTrip :
    State.reset.isIdle = true ∧ (127 : Byte).toNat < 128 ∧ State.reset.cfg.modePwm.toNat < 128 ∧
    small.isIdle = true ∧ small.cfg.modePwm.toNat < 128 ∧ (5 : Byte).toNat % 16 < small.cfg.kChannels ∧
    ¬ (6 : Byte).toNat % 16 < small.cfg.kChannels := by decide

theorem witness_ClockEdgeIsItsTransactions :
    { tick with rst := true }.rst = true ∧ tick.rst = false ∧ State.reset.busy = none ∧ emitting.busy ≠ none := by decide

theorem witness_RecordOfTheOutputsIsNeverRead :
    ∃ t, step (State.reset.offer (.port (.command 0 13 1))) = .next t := ⟨_, rfl⟩

end Sys2Proof.Tests
end

section
/-! PROOFS. The Encoder (41_encoder.md): what each operation of the command port sends and leaves alone, and that no operation
meets the Decoder's registers. -/

namespace Sys2Proof.Machine

/-! ### The results that only emit (rules R92, R94, R95) -/

theorem encoderResult_pinMode (s : State) (pin mode : Byte) :
    encoderResult s 0 pin mode = s.emitted [0xF4, pin, mode] := rfl

/-- The header and the split value of the `ANALOG_MESSAGE` frame, as numbers (rule R94). -/
theorem encoderResult_analogWrite (s : State) (pin value : Byte) :
    encoderResult s 2 pin value = s.emitted [0xF4, pin, s.cfg.modePwm, BitVec.ofNat 8 (0xE0 + pin.toNat % 16),
      BitVec.ofNat 8 (value.toNat % 128), BitVec.ofNat 8 (value.toNat / 128)] := by
  obtain ⟨-, -, -, -, header⟩ := pin_fields pin
  obtain ⟨low, high, -, -⟩ := split_fields value
  calc encoderResult s 2 pin value
      = s.emitted [0xF4, pin, s.cfg.modePwm, 0xE0 ||| (pin &&& 0x0F), value &&& 0x7F, value >>> 7] := rfl
    _ = _ := by rw [header, low, high]

theorem encoderResult_requestReports (s : State) (pin arg : Byte) :
    encoderResult s 3 pin arg = s.emitted [0xC0, 0x01, 0xC1, 0x01, 0xC2, 0x01, 0xC3, 0x01, 0xC4, 0x01, 0xC5, 0x01,
      0xD0, 0x01, 0xD1, 0x01] := rfl

/-- An operation whose result only emits ends `OK`, appends its bytes to TX and leaves every register alone (rule R99). -/
theorem exec_decodeCommand_of_emitted {s : State} {op : BitVec 2} {pin arg : Byte} {bytes : List Byte}
    (h : encoderResult s op pin arg = s.emitted bytes) :
    exec (decodeCommand op pin arg) s = .next { s with tx := s.tx ++ bytes, statuses := s.statuses ++ [.ok] } := by
  rw [exec_decodeCommand, h]
  rfl

/-! ### The frame of every operation (rules R28, R96) -/

/-- Completing a host operation leaves the store, the session, the answers, the parameters and the inputs alone, and any operation
in progress with them. -/
theorem complete_frame (s : State) (r : EncoderResult) :
    SameStore s (s.complete r) ∧ SameSession s (s.complete r) ∧ SameAnswers s (s.complete r) ∧
    SameOutside s (s.complete r) ∧ (s.complete r).busy = s.busy := by
  simp [SameStore, SameSession, SameAnswers, SameOutside]

/-! ### The obligations -/

/-- Settles O43: the two frames of `analogWrite` in numbers, emitted in every state. -/
theorem analogWriteSendsTwoFrames : Obligations.AnalogWriteSendsTwoFrames := by
  intro s pin value
  exact ⟨rfl, exec_decodeCommand_of_emitted (encoderResult_analogWrite s pin value)⟩

/-- Settles O46: the command port completes `encoderResult`, whose frame is `complete_frame` and which reads only the parameters and
the mirror. -/
theorem encoderStepsStayApartFromTheDecoder : Obligations.EncoderStepsStayApartFromTheDecoder := by
  intro s op pin arg
  obtain ⟨store, session, answers, outside, busy⟩ := complete_frame s (encoderResult s op pin arg)
  constructor
  · exact ⟨_, exec_decodeCommand s op pin arg, store, session, answers, outside, busy,
      complete_dout s _, complete_tx s _, complete_statuses s _⟩
  · intro s' hcfg hdout
    exact encoderResult_congr hcfg hdout op pin arg

/-- Settles O41: `pinMode` only emits its one frame. -/
theorem pinModeSendsThreeRawBytes : Obligations.PinModeSendsThreeRawBytes := by
  intro s pin mode
  exact ⟨rfl, exec_decodeCommand_of_emitted (encoderResult_pinMode s pin mode)⟩

/-- Settles O44: `requestReports` only emits, and its bytes name neither the operands nor the state. -/
theorem requestReportsSendsSixteenBytes : Obligations.RequestReportsSendsSixteenBytes := by
  intro s pin arg
  exact ⟨rfl, exec_decodeCommand_of_emitted (encoderResult_requestReports s pin arg)⟩

end Sys2Proof.Machine
end

section
/-! PROOFS. The encoding (30_encoding.md): the decoder and the encoder are inverse, the header map, and the split and assembly of a
14-bit value. -/

namespace Sys2Proof.Machine

/-! ### Decoder and encoder, one group of rows at a time -/

/-- The seven rows whose header carries a nibble (rule R62). -/
theorem decodeHeader_headerCQ : ∀ n : Index4,
    decodeHeader (headerCQ 0x80 n) = .unassigned8n n ∧ decodeHeader (headerCQ 0x90 n) = .digitalMessage n ∧
    decodeHeader (headerCQ 0xA0 n) = .unassignedAn n ∧ decodeHeader (headerCQ 0xB0 n) = .unassignedBn n ∧
    decodeHeader (headerCQ 0xC0 n) = .reportAnalog n ∧ decodeHeader (headerCQ 0xD0 n) = .reportDigital n ∧
    decodeHeader (headerCQ 0xE0 n) = .analogMessage n := by decide

/-- The three rows that hold two bytes each (rule R73). -/
theorem decodeHeader_pair : ∀ x : BitVec 1,
    decodeHeader (0xF2 ||| x.setWidth 8) = .unassignedF2F3 x ∧ decodeHeader (0xFA ||| x.setWidth 8) = .unassignedFAFB x ∧
    decodeHeader (0xFC ||| x.setWidth 8) = .unassignedFCFD x := by decide

/-- A widened data byte has bit 7 clear, is read back, and is a stray byte to step 3 (rules R61, R120). -/
theorem widened_data : ∀ d : Data7,
    isDataByte (d.setWidth 8) = true ∧ (d.setWidth 8 : Byte).setWidth 7 = d ∧ decodeHeader (d.setWidth 8) = .dataStray d := by
  decide

theorem decode_dispatch_split (cmd : Byte) (chan : Index4) (v : Value14) :
    decode (.dispatch cmd chan (splitLow v) (splitHigh v)) =
      if cmd = 0x90 then .ok (.setDigitalPort chan v)
      else if cmd = 0xE0 then .ok (.setAnalogChannel chan v)
      else if cmd = 0xF9 then .ok (.setVersion ((splitHigh v).setWidth 7) ((splitLow v).setWidth 7))
      else .error .noMultiByteCommand := by
  rw [decode, decodeDispatch, assemble_split]

/-- Of the bytes of sysex mode only `0xF7` ends the block (rule R106). -/
theorem decodeSysex_of_ne {b : Byte} (h : b ≠ 0xF7) : decodeSysex b = .sysexPayload b := if_neg h

/-- What a header byte decodes to spells that byte again. -/
theorem encode_decodeHeader : ∀ b : Byte, (decodeHeader b).wf = true ∧ encode (decodeHeader b) = .wire .header b := by
  decide

theorem encode_decodeSysex (b : Byte) : (decodeSysex b).wf = true ∧ encode (decodeSysex b) = .wire .sysex b := by
  by_cases h : b = 0xF7
  · subst h
    decide
  · rw [decodeSysex_of_ne h]
    exact ⟨by simpa [Instr.wf] using h, rfl⟩

theorem tableRow_decodeHeader_context : ∀ b : Byte, (tableRow (decodeHeader b)).1 = .wireHeader := by decide

/-- Exactly one of the 21 header rows holds a byte: the row of what it decodes to (rule R82). -/
theorem headerRows_filter : ∀ b : Byte,
    headerRows.filter (fun row => b &&& row.2 = row.1) = [(tableRow (decodeHeader b)).2] := by decide

/-- Every header row is the row of what its `match` decodes to. -/
theorem tableRow_decodeHeader_match :
    headerRows.map (fun row => (tableRow (decodeHeader row.1)).2) = headerRows.map id := rfl

theorem isDataByte_iff (b : Byte) : isDataByte b = true ↔ b < 0x80 := decide_eq_true_iff

/-! ### The obligations -/

/-- Settles O4: by the rows of the opcode table, each group read back by its lemma above. -/
theorem decodeOfEncodeIsTheInstruction : Obligations.DecodeOfEncodeIsTheInstruction := by
  intro i hwf
  cases i with
  | dataStray d => simp [encode, decode, widened_data d]
  | unassigned8n n | digitalMessage n | unassignedAn n | unassignedBn n | reportAnalog n | reportDigital n | analogMessage n =>
    simp only [encode, decode, decodeHeader_headerCQ n]
  | unassignedF2F3 x | unassignedFAFB x | unassignedFCFD x => simp only [encode, decode, decodeHeader_pair x]
  | dataByte d => simp [encode, decode, widened_data d]
  | sysexPayload b => exact congrArg Except.ok (decodeSysex_of_ne (by simpa [Instr.wf] using hwf))
  | setDigitalPort port v => exact decode_dispatch_split 0x90 port v
  | setAnalogChannel channel v => exact decode_dispatch_split 0xE0 channel v
  | setVersion major minor => simp [encode, decode, decodeDispatch, widened_data major, widened_data minor]
  | digitalWrite pin v => simp [encode, decode, decodeCommand]
  | startSysex | unassignedF1 | setPinMode | unassignedF5 | unassignedF6 | endSysex | unassignedF8 | reportVersion
  | unassignedFE | systemReset | endSysexBlock => rfl
  | pinMode | analogWrite | requestReports | readDigitalPin | readAnalogChannel | readVersion | queryUnassigned => rfl

/-- Settles O5: context by context, the byte is read back from what it decodes to. -/
theorem encodeOfDecodedByteIsTheByte : Obligations.EncodeOfDecodedByteIsTheByte := by
  intro space b i h
  cases space with
  | header =>
    cases h
    exact encode_decodeHeader b
  | data =>
    by_cases hb : isDataByte b = true
    · rw [decode, if_pos hb] at h
      cases h
      exact ⟨rfl, congrArg (Code.wire .data) (dataByte_widen ((isDataByte_iff b).1 hb))⟩
    · rw [decode, if_neg hb] at h
      cases h
  | sysex =>
    cases h
    exact encode_decodeSysex b

/-- Settles O8: both directions as arithmetic on the 14 bits. -/
theorem splitAndAssembleAreInverse : Obligations.SplitAndAssembleAreInverse := by
  refine ⟨fun v => ⟨toNat_splitLow v, toNat_splitHigh v, assemble_split v⟩, fun lo hi hlo hhi => ?_⟩
  have sum : (assemble lo hi).toNat = lo.toNat + 128 * hi.toNat := by
    rw [toNat_assemble]
    omega
  refine ⟨sum, BitVec.eq_of_toNat_eq ?_, BitVec.eq_of_toNat_eq ?_⟩
  · rw [toNat_splitLow, sum]
    omega
  · rw [toNat_splitHigh, sum]
    omega

/-- Settles O1, value by value. -/
theorem headerMapFollowsRule73 : Obligations.HeaderMapFollowsRule73 := by
  unfold Obligations.HeaderMapFollowsRule73
  decide

/-- Settles O2: one row holds each byte, and the 21 rows are each read back. -/
theorem headerRowsPartitionTheBytes : Obligations.HeaderRowsPartitionTheBytes :=
  ⟨rfl, fun b => ⟨tableRow_decodeHeader_context b, headerRows_filter b⟩, List.map_inj_left.1 tableRow_decodeHeader_match⟩

/-- Settles O3: `rxSpace` tests in the order of rule R105, and `decode` in the context it names is `decodeRx`. -/
theorem receivedByteIsTakenByOneArm : Obligations.ReceivedByteIsTakenByOneArm := by
  intro sysex rem b
  have data_iff : isDataByte b = true ↔ b.toNat < 128 := isDataByte_iff b
  refine ⟨fun hx => by simp [rxSpace, hx], fun hx hr hb => ?_, fun hx hrb => ?_, ?_⟩
  · rw [rxSpace, hx, if_neg Bool.false_ne_true, if_pos ⟨hr, data_iff.2 hb⟩]
  · rw [rxSpace, hx, if_neg Bool.false_ne_true, if_neg]
    rintro ⟨hr, hb⟩
    have := data_iff.1 hb
    exact hrb.elim hr (by omega)
  · unfold decodeRx rxSpace
    split_ifs with hx hd
    · rfl
    · exact if_pos hd.2
    · rfl

/-- Settles O6: each select code is compared with numerals only. -/
theorem selectCodesOfThePorts : Obligations.SelectCodesOfThePorts := by
  intro pin arg idx
  have lowBit : arg.setWidth 1 = arg.extractLsb' 0 1 := BitVec.setWidth_eq_extractLsb' (by decide)
  exact ⟨rfl, congrArg (Instr.digitalWrite pin) lowBit, rfl, rfl, rfl, rfl, rfl, rfl⟩

/-- Settles O7: the words are decoded. -/
theorem wordsOfTheFrameFormats : Obligations.WordsOfTheFrameFormats := by
  unfold Obligations.WordsOfTheFrameFormats
  decide

end Sys2Proof.Machine
end

section
/-! PROOFS. The step (20_memory.md, 60_exceptions.md, 70_reset_and_hazards.md): the updates a step is made of, the one fault, the
invariant of rule R32, and reset. -/

namespace Sys2Proof.Machine

open Host (Outcome)

/-! ### The updates a step is made of -/

/-- One received byte, operation, query, byte taken by the Transport, or reset, as the update of the state that it comes to. -/
inductive Update : State → State → Prop
  | rx {s t : State} (b : Byte) (h : exec (decodeRx s.sysex s.rem b) s = .next t) : Update s t
  | operation (s : State) (op : BitVec 2) (pin arg : Byte) : Update s (s.complete (encoderResult s op pin arg))
  | query (s : State) (q : BitVec 2) (idx : Byte) : Update s (s.answer (queryAnswer s q idx))
  | accept (s : State) (op : BitVec 2) (pin arg : Byte) : Update s (s.acceptOperation op pin arg)
  | take (s : State) : Update s s.takeByte
  | reset (s : State) : Update s s.applyReset

/-- A run of updates: what one input comes to, an edge being several. -/
abbrev Updates : State → State → Prop := Relation.ReflTransGen Update

theorem runTransaction_updates {tr : Transaction} {s t : State} (h : runTransaction tr s = .next t) : Updates s t := by
  cases tr with
  | rx b => exact .single (.rx b h)
  | command op pin arg =>
    rw [runTransaction, exec_decodeCommand] at h
    split_ifs at h <;> cases h
    · exact .refl
    · exact .single (.operation s op pin arg)
  | query q idx =>
    rw [runTransaction, exec_decodeQuery] at h
    cases h
    exact .single (.query s q idx)

/-- An edge after the Transport has taken its byte, if it takes one (rule R49). -/
def State.edgeTaken (s : State) (p : PinsIn) : State := if p.txReady then s.takeByte else s

/-- An edge before its Decoder step: the Transport has taken its byte, and an operation has been accepted (rule R49). -/
def State.edgeEncoder (s : State) (p : PinsIn) : State :=
  if p.cmdValid && s.busy.isNone then (s.edgeTaken p).acceptOperation p.cmdOp p.cmdPin p.cmdArg else s.edgeTaken p

theorem clockEdge_eq (p : PinsIn) (s : State) :
    clockEdge p s = if p.rst then .next s.applyReset
      else if p.rxValid then exec (decodeRx (s.edgeEncoder p).sysex (s.edgeEncoder p).rem p.rxData) (s.edgeEncoder p)
      else .next (s.edgeEncoder p) := rfl

theorem edgeTaken_updates (s : State) (p : PinsIn) : Updates s (s.edgeTaken p) := by
  unfold State.edgeTaken
  split_ifs
  · exact .single (.take s)
  · exact .refl

theorem edgeEncoder_updates (s : State) (p : PinsIn) : Updates s (s.edgeEncoder p) := by
  unfold State.edgeEncoder
  split_ifs
  · exact (edgeTaken_updates s p).tail (.accept ..)
  · exact edgeTaken_updates s p

theorem runInput_updates {i : Input} {s t : State} (h : runInput i s = .next t) : Updates s t := by
  cases i with
  | port tr => exact runTransaction_updates h
  | accept op pin arg =>
    cases h
    exact .single (.accept s op pin arg)
  | take =>
    cases h
    exact .single (.take s)
  | reset lost =>
    cases h
    exact .single (.reset s)
  | edge p =>
    rw [runInput, clockEdge_eq] at h
    split_ifs at h
    · cases h
      exact .single (.reset s)
    · exact (edgeEncoder_updates s p).tail (.rx _ h)
    · cases h
      exact edgeEncoder_updates s p

/-- A step with nothing offered. -/
theorem step_nil {s : State} (h : s.inputs = []) : step s = .next s := by rw [step, h]

/-- A step takes the first input from the list and runs it. -/
theorem step_cons {s : State} {i : Input} {rest : List Input} (h : s.inputs = i :: rest) :
    step s = runInput i { s with inputs := rest } := by rw [step, h]

/-- Every step is a run of updates, on the state whose first input is gone. -/
theorem step_updates {s t : State} (h : step s = .next t) : Updates { s with inputs := s.inputs.tail } t := by
  cases hi : s.inputs with
  | nil =>
    rw [step_nil hi] at h
    cases h
    rw [List.tail_nil, ← hi]
  | cons i rest =>
    rw [step_cons hi] at h
    exact runInput_updates h

/-! ### The one fault (entry U1) -/

/-- A received byte at which the machine stops: beyond the buffer, where the parameter asks for a fault. -/
def State.OverflowAt (s : State) : Prop := s.cfg.sysexOverflow = .fault ∧ s.sysex = true ∧ 32 ≤ s.sxcnt.toNat

theorem rx_outcome (s : State) (b : Byte) :
    (∃ t, exec (decodeRx s.sysex s.rem b) s = .next t) ∨
    (exec (decodeRx s.sysex s.rem b) s = .fault .sysexOverflow ∧ s.OverflowAt) := by
  rw [exec_decodeRx]
  split_ifs with hx
  · exact .inl ⟨_, rfl⟩
  · rcases execSysexPayload_cases b s with ⟨_, e⟩ | ⟨_, _, e⟩ | ⟨hn, hf, e⟩
    · exact .inl ⟨_, e⟩
    · exact .inl ⟨_, e⟩
    · exact .inr ⟨e, hf, hx, hn⟩
  · exact .inl ⟨_, rfl⟩
  · exact .inl ⟨_, rfl⟩

/-- The Encoder's half of an edge leaves the Decoder's registers and the parameters alone. -/
theorem edgeEncoder_decoder (s : State) (p : PinsIn) :
    (s.edgeEncoder p).cfg = s.cfg ∧ SameStore s (s.edgeEncoder p) ∧ SameSession s (s.edgeEncoder p) := by
  unfold State.edgeEncoder State.edgeTaken
  split_ifs <;> simp [SameStore, SameSession]

theorem edgeEncoder_overflowAt {s : State} {p : PinsIn} (h : (s.edgeEncoder p).OverflowAt) : s.OverflowAt := by
  obtain ⟨cfg, -, -, -, -, -, sysex, sxcnt⟩ := edgeEncoder_decoder s p
  obtain ⟨hf, hx, hn⟩ := h
  rw [cfg] at hf
  rw [sysex] at hx
  rw [sxcnt] at hn
  exact ⟨hf, hx, hn⟩

/-- What one input answers: a next state, or the one fault. -/
theorem runInput_outcome (i : Input) (s : State) :
    (∃ t, runInput i s = .next t) ∨ (runInput i s = .fault .sysexOverflow ∧ s.OverflowAt) := by
  cases i with
  | port tr =>
    cases tr with
    | rx b => exact rx_outcome s b
    | command op pin arg =>
      rw [runInput, runTransaction, exec_decodeCommand]
      split_ifs
      · exact .inl ⟨_, rfl⟩
      · exact .inl ⟨_, rfl⟩
    | query q idx => exact .inl ⟨_, exec_decodeQuery s q idx⟩
  | accept op pin arg => exact .inl ⟨_, rfl⟩
  | take => exact .inl ⟨_, rfl⟩
  | reset lost => exact .inl ⟨_, rfl⟩
  | edge p =>
    rw [runInput, clockEdge_eq]
    split_ifs
    · exact .inl ⟨_, rfl⟩
    · exact (rx_outcome (s.edgeEncoder p) p.rxData).imp id (And.imp id edgeEncoder_overflowAt)
    · exact .inl ⟨_, rfl⟩

theorem step_outcome (s : State) : (∃ t, step s = .next t) ∨ (step s = .fault .sysexOverflow ∧ s.OverflowAt) := by
  cases hi : s.inputs with
  | nil => exact .inl ⟨s, step_nil hi⟩
  | cons i rest =>
    rw [step_cons hi]
    exact runInput_outcome i { s with inputs := rest }

/-! ### The invariant (rule R32) -/

theorem rem_ne_three_of_inv {s : State} (h : s.Inv) : s.rem ≠ 3 := by
  obtain ⟨-, ⟨rem, -⟩, -⟩ := h
  exact rem

theorem rem_cases : ∀ r : BitVec 2, r ≠ 0 → r ≠ 3 → r = 1 ∨ r = 2 := by decide

theorem toIdle_inv {s : State} (h : s.Inv) : s.toIdle.Inv := by
  obtain ⟨wf, ⟨-, -, -, -, count, -⟩, absent, busy⟩ := h
  exact ⟨wf, ⟨by simp, .inl rfl, by simp, by simp, count, by simp⟩, absent, busy⟩

theorem storePayload_inv {s : State} (b : Byte) (hx : s.sysex = true) (hn : s.sxcnt.toNat < 32) (h : s.Inv) :
    (s.storePayload b).Inv := by
  obtain ⟨wf, ⟨rem, cmd, remCmd, inSysex, -, -⟩, absent, busy⟩ := h
  have noData : s.rem ≠ 1 := by rw [(inSysex hx).1]; decide
  have count : s.sxcnt + 1 ≤ 32 := by bv_omega
  exact ⟨wf, ⟨rem, cmd, remCmd, inSysex, count, fun e => absurd e noData⟩, absent, busy⟩

/-- A header of a multi-byte command: `AWAITING_DATA` with two bytes to come. -/
theorem awaitChannelData_inv {s : State} (hx : s.sysex = false) (h : s.Inv) (c : Byte) (ch : Index4)
    (hc : c = 0x90 ∨ c = 0xE0 ∨ c = 0xF9) : (s.awaitChannelData c ch).Inv := by
  obtain ⟨wf, ⟨-, -, -, -, count, -⟩, absent, busy⟩ := h
  have pending : c ≠ 0x00 := by rcases hc with rfl | rfl | rfl <;> decide
  exact ⟨wf, ⟨by simp, .inr hc, by simpa using pending, by simp [hx], count, by simp⟩, absent, busy⟩

theorem enterSysex_inv {s : State} (h : s.Inv) : s.enterSysex.Inv := by
  obtain ⟨wf, -, absent, busy⟩ := h
  exact ⟨wf, ⟨by simp, .inl rfl, by simp, by simp, by simp, by simp⟩, absent, busy⟩

theorem takeHeader_inv {s : State} (b : Byte) (hx : s.sysex = false) (h : s.Inv) : (s.takeHeader b).Inv := by
  unfold State.takeHeader
  split_ifs
  · exact awaitChannelData_inv hx h 0x90 _ (.inl rfl)
  · exact awaitChannelData_inv hx h 0xE0 _ (.inr (.inl rfl))
  · exact awaitChannelData_inv hx h 0xF9 s.chan (.inr (.inr rfl))
  · exact enterSysex_inv h
  · exact h

theorem takeData_inv {s : State} {b : Byte} (hx : s.sysex = false) (hr : s.rem ≠ 0) (hb : b < 0x80) (h : s.Inv) :
    (s.takeData b).Inv := by
  obtain ⟨wf, ⟨rem, cmd, remCmd, inSysex, count, -⟩, absent, busy⟩ := h
  rcases rem_cases s.rem hr rem with h1 | h2
  · obtain ⟨din, ain, -, -, cmd0⟩ := takeData_second_store h1 b
    have rem0 : (s.takeData b).rem = 0 := by rw [takeData_rem, h1]; rfl
    refine ⟨by simpa using wf, ⟨by rw [rem0]; decide, .inl cmd0, iff_of_true rem0 cmd0, fun _ => ⟨rem0, cmd0⟩,
      by simpa using count, fun e => absurd (rem0.symm.trans e) (by decide)⟩, ⟨fun p hp => ?_, fun c hc => ?_⟩,
      by simpa [State.BusyInv] using busy⟩
    · rw [takeData_cfg] at hp
      rw [din, if_neg (by omega), takeData_dout]
      exact absent.1 p hp
    · rw [takeData_cfg] at hc
      rw [ain, if_neg (by omega)]
      exact absent.2 c hc
  · rw [takeData_first h2]
    have pending : s.cmd ≠ 0x00 := fun e => hr (remCmd.2 e)
    exact ⟨wf, ⟨by simp, cmd, by simpa using pending, by simp [hx], count, by simpa using hb⟩, absent, busy⟩

theorem rx_inv {s t : State} {b : Byte} (h : exec (decodeRx s.sysex s.rem b) s = .next t) (hs : s.Inv) : t.Inv := by
  rcases rx_next_cases h with ⟨-, -, rfl⟩ | ⟨hx, -, hn, rfl⟩ | ⟨-, -, -, rfl⟩ | ⟨hx, hr, hb, rfl⟩ | ⟨hx, -, rfl⟩
  · exact toIdle_inv hs
  · exact storePayload_inv b hx hn hs
  · exact hs
  · exact takeData_inv hx hr hb hs
  · exact takeHeader_inv b hx hs

/-- What an operation comes to: only `digitalWrite` in range writes the mirror, one cell of it (rules R21, R93). -/
theorem encoderResult_dout_cases (s : State) (op : BitVec 2) (pin arg : Byte) :
    (encoderResult s op pin arg).dout = s.dout ∨
    (op = 1 ∧ pin.toNat / 8 < s.cfg.nPorts ∧ ∃ m, (encoderResult s op pin arg).dout = setReg s.dout (pinReg pin) m) := by
  unfold encoderResult
  split_ifs with h0 h1
  · exact .inl rfl
  · unfold digitalWriteResult
    split_ifs with hr
    · exact .inl rfl
    · rw [pinOutOfRange_iff] at hr
      exact .inr ⟨h1, by omega, _, rfl⟩
  · exact .inl rfl
  · exact .inl rfl

theorem Config.wf_iff (c : Config) :
    c.wf = true ↔ 1 ≤ c.nPorts ∧ c.nPorts ≤ 16 ∧ 1 ≤ c.kChannels ∧ c.kChannels ≤ 16 := by
  simp [Config.wf, and_assoc]

/-- The cells of the mirror for ports that do not exist are not written. -/
theorem encoderResult_dout_absent {s : State} (wf : s.cfg.wf = true) (op : BitVec 2) (pin arg : Byte) {p : Index4}
    (hp : s.cfg.nPorts ≤ p.toNat) : getReg (encoderResult s op pin arg).dout p = getReg s.dout p := by
  rcases encoderResult_dout_cases s op pin arg with e | ⟨-, hr, m, e⟩
  · rw [e]
  · obtain ⟨-, ports, -, -⟩ := (Config.wf_iff s.cfg).1 wf
    obtain ⟨-, -, -, port, -⟩ := pin_fields pin
    rw [e, getReg_setReg, if_neg]
    rintro rfl
    rw [(port (by omega)).1] at hp
    omega

theorem absentRegsZero_of_dout {s : State} (wf : s.cfg.wf = true) (h : s.AbsentRegsZero) (op : BitVec 2) (pin arg : Byte) :
    State.AbsentRegsZero { s with dout := (encoderResult s op pin arg).dout } :=
  ⟨fun p hp => ⟨(h.1 p hp).1, (encoderResult_dout_absent wf op pin arg hp).trans (h.1 p hp).2⟩, h.2⟩

theorem complete_inv {s : State} (op : BitVec 2) (pin arg : Byte) (h : s.Inv) :
    (s.complete (encoderResult s op pin arg)).Inv := by
  obtain ⟨wf, session, absent, busy⟩ := h
  exact ⟨wf, session, absentRegsZero_of_dout wf absent op pin arg, busy⟩

theorem acceptOperation_inv {s : State} (op : BitVec 2) (pin arg : Byte) (h : s.Inv) : (s.acceptOperation op pin arg).Inv := by
  rcases acceptOperation_cases s op pin arg with ⟨-, e⟩ | ⟨-, -, e⟩ | ⟨-, bytes, -, e⟩ <;> rw [e]
  · exact h
  · exact complete_inv op pin arg h
  · obtain ⟨wf, session, absent, -⟩ := h
    exact ⟨wf, session, absentRegsZero_of_dout wf absent op pin arg, by simpa [State.BusyInv] using bytes⟩

theorem takeByte_inv {s : State} (h : s.Inv) : s.takeByte.Inv := by
  obtain ⟨wf, session, absent, busy⟩ := h
  rcases takeByte_cases s with ⟨-, e⟩ | ⟨st, -, e⟩ | ⟨b, st, -, e⟩ | ⟨b, c, rest, st, hb, e⟩ <;> rw [e]
  · exact ⟨wf, session, absent, busy⟩
  · exact ⟨wf, session, absent, by simp [State.BusyInv]⟩
  · exact ⟨wf, session, absent, by simp [State.BusyInv]⟩
  · obtain ⟨-, ok⟩ := busy _ hb
    exact ⟨wf, session, absent, by simpa [State.BusyInv] using ok⟩

theorem construct_inv {cfg : Config} (wf : cfg.wf = true) : (State.construct cfg).Inv := by
  refine ⟨wf, ⟨by simp [State.construct], .inl rfl, by simp [State.construct], by simp [State.construct],
    by simp [State.construct], by simp [State.construct]⟩, ?_, by simp [State.construct, State.BusyInv]⟩
  exact ⟨fun p _ => ⟨getReg_replicate 0 p, getReg_replicate 0 p⟩, fun c _ => getReg_replicate 0 c⟩

theorem update_inv {s t : State} (u : Update s t) (h : s.Inv) : t.Inv := by
  cases u with
  | rx b e => exact rx_inv e h
  | operation op pin arg => exact complete_inv op pin arg h
  | query q idx => exact h
  | accept op pin arg => exact acceptOperation_inv op pin arg h
  | take => exact takeByte_inv h
  | reset => exact construct_inv h.1

theorem update_cfg {s t : State} (u : Update s t) : t.cfg = s.cfg := by
  cases u with
  | rx b e =>
    rcases rx_next_cases e with ⟨-, -, rfl⟩ | ⟨-, -, -, rfl⟩ | ⟨-, -, -, rfl⟩ | ⟨-, -, -, rfl⟩ | ⟨-, -, rfl⟩
    · rfl
    · rfl
    · rfl
    · exact takeData_cfg s b
    · obtain ⟨-, -, -, -, ⟨cfg, -⟩, -⟩ := takeHeader_frame s b
      exact cfg
  | operation op pin arg => rfl
  | query q idx => rfl
  | accept op pin arg => exact acceptOperation_cfg s op pin arg
  | take => exact takeByte_cfg s
  | reset => rfl

theorem updates_inv {s t : State} (u : Updates s t) (h : s.Inv) : t.Inv := by
  induction u with
  | refl => exact h
  | tail _ last ih => exact update_inv last ih

theorem updates_cfg {s t : State} (u : Updates s t) : t.cfg = s.cfg := by
  induction u with
  | refl => rfl
  | tail _ last ih => exact (update_cfg last).trans ih

/-! ### The obligations -/

/-- Settles O17: each update keeps the invariant and the parameters, and a step is a run of updates. -/
theorem everyStepKeepsTheInvariant : Obligations.EveryStepKeepsTheInvariant := by
  intro s t h
  have run : Updates { s with inputs := s.inputs.tail } t := step_updates h
  have cfg := updates_cfg run
  have inv := updates_inv run
  exact ⟨cfg, inv⟩

/-- Settles O13: a step answers a next state or the one fault, and the fault only where the parameter asks for it. -/
theorem onlyTheOverflowParameterStopsAStep : Obligations.OnlyTheOverflowParameterStopsAStep := by
  refine ⟨fun s trunc => ?_, fun s r e => ?_, fun s r e => ?_⟩
  · rcases step_outcome s with next | ⟨-, hf, -, -⟩
    · exact next
    · rw [trunc] at hf
      cases hf
  · rcases step_outcome s with ⟨t, e'⟩ | ⟨e', -⟩ <;> rw [e] at e' <;> cases e'
  · rcases step_outcome s with ⟨t, e'⟩ | ⟨e', at_⟩ <;> rw [e] at e' <;> cases e'
    exact ⟨rfl, at_⟩

/-- Settles O9: the three kinds of transaction, the busy command port being excluded. -/
theorem stepRunsTheDecodedInstruction : Obligations.StepRunsTheDecodedInstruction := by
  intro s tr rest hi free
  rw [step_cons hi]
  cases tr with
  | rx b => rfl
  | command op pin arg =>
    have idle : s.busy = none := free.resolve_right fun h => h op pin arg rfl
    exact if_neg (by simp [idle])
  | query q idx => rfl

/-- Settles O10: the step on an empty list of inputs. -/
theorem nothingOfferedChangesNothing : Obligations.NothingOfferedChangesNothing := fun _ => step_nil

/-- Settles O11: both forms of an offer are turned away while an operation is in progress. -/
theorem busyCommandPortAcceptsNothing : Obligations.BusyCommandPortAcceptsNothing := by
  rintro s w op pin arg rest hb (hi | hi) <;> rw [step_cons hi]
  · exact if_pos (by simp [hb])
  · exact congrArg Outcome.next (if_pos (by simp [hb]))

/-- Settles O12: the placed transaction is the first input, in `IDLE` with the command port free. -/
theorem placedTableWordRunsNext : Obligations.PlacedTableWordRunsNext := by
  intro s nbits w i h
  obtain rfl : decodeTransaction false 0 (tableTransaction nbits w) = i := Option.some.inj h
  exact stepRunsTheDecodedInstruction _ _ s.inputs rfl (.inl rfl)

/-- Settles O14: the reset state, register by register. -/
theorem resetValues : Obligations.ResetValues := by
  refine ⟨rfl, rfl, rfl, rfl, rfl, fun i h => Vector.getElem_replicate h, fun p => ?_, fun c => ?_, rfl, rfl⟩
  · exact ⟨getReg_replicate 0 p, getReg_replicate 0 p⟩
  · exact getReg_replicate 0 c

/-- Settles O15: the step is `applyReset`, whose registers are those of construction. -/
theorem resetPutsEveryRegisterAtItsResetValue : Obligations.ResetPutsEveryRegisterAtItsResetValue := by
  intro s lost rest hi
  refine ⟨_, step_cons hi, rfl, rfl, rfl, rfl, rfl, fun i h => Vector.getElem_replicate h, fun p => ?_, fun c => ?_,
    rfl, rfl, rfl, rfl, rfl, ⟨rfl, rfl⟩, rfl⟩
  · exact ⟨getReg_replicate 0 p, getReg_replicate 0 p⟩
  · exact getReg_replicate 0 c

/-- Settles O16: the reset state is the one constructed with the default parameters. -/
theorem resetStateMeetsTheInvariant : Obligations.ResetStateMeetsTheInvariant := construct_inv (by decide)

end Sys2Proof.Machine
end

section
/-! PROOFS. The Decoder (42_decoder.md): what each byte does in each mode, whole frames and blocks, and that the Decoder stays apart
from the rest of the block. -/

namespace Sys2Proof.Machine

open Host (Outcome)

/-! ### Headers (rules R73, R108) -/

/-- The bytes at which `takeHeader` changes nothing (rules R115 to R120). -/
def IgnoredByte (b : Byte) : Prop := b &&& 0xF0 ≠ 0x90 ∧ b &&& 0xF0 ≠ 0xE0 ∧ b ≠ 0xF9 ∧ b ≠ 0xF0

/-- The headers of the three multi-byte commands. -/
def FrameHeader (b : Byte) : Prop := b &&& 0xF0 = 0x90 ∨ b &&& 0xF0 = 0xE0 ∨ b = 0xF9

theorem takeHeader_digital {b : Byte} (h : b &&& 0xF0 = 0x90) (s : State) :
    s.takeHeader b = s.awaitChannelData 0x90 (b.setWidth 4) := if_pos h

theorem takeHeader_analog {b : Byte} (h : b &&& 0xF0 = 0xE0) (s : State) :
    s.takeHeader b = s.awaitChannelData 0xE0 (b.setWidth 4) := by
  rw [State.takeHeader, if_neg (by rw [h]; decide), if_pos h]

theorem takeHeader_version (s : State) : s.takeHeader 0xF9 = s.awaitData 0xF9 := rfl

theorem takeHeader_startSysex (s : State) : s.takeHeader 0xF0 = s.enterSysex := rfl

theorem takeHeader_ignored {b : Byte} (h : IgnoredByte b) (s : State) : s.takeHeader b = s := by
  obtain ⟨h1, h2, h3, h4⟩ := h
  rw [State.takeHeader, if_neg h1, if_neg h2, if_neg h3, if_neg h4]

/-- A multi-byte header asks for two data bytes and leaves sysex mode as it is. -/
theorem takeHeader_frameHeader {b : Byte} (h : FrameHeader b) (s : State) :
    (s.takeHeader b).rem = 2 ∧ (s.takeHeader b).sysex = s.sysex := by
  rcases h with h | h | rfl
  · rw [takeHeader_digital h]
    exact ⟨rfl, rfl⟩
  · rw [takeHeader_analog h]
    exact ⟨rfl, rfl⟩
  · exact ⟨rfl, rfl⟩

theorem ignoredByte_of_data {b : Byte} (h : b < 0x80) : IgnoredByte b := by
  obtain ⟨-, -, -, data⟩ := nibble_ranges b
  exact data h

theorem frameHeader_not_data {b : Byte} (h : FrameHeader b) : ¬ b < 0x80 := by
  intro hb
  obtain ⟨h1, h2, h3, -⟩ := ignoredByte_of_data hb
  exact h.elim h1 (Or.rec h2 h3)

/-! The ranges of rule R122 as the Decoder tests them. -/

theorem le_data_iff (b : Byte) : b ≤ 0x7F ↔ b < 0x80 := by
  obtain ⟨-, -, data, -⟩ := nibble_ranges b
  exact data

theorem digital_range_iff (b : Byte) : 0x90 ≤ b.toNat ∧ b.toNat ≤ 0x9F ↔ b &&& 0xF0 = 0x90 := by
  obtain ⟨digital, -, -, -⟩ := nibble_ranges b
  exact digital

theorem analog_range_iff (b : Byte) : 0xE0 ≤ b.toNat ∧ b.toNat ≤ 0xEF ↔ b &&& 0xF0 = 0xE0 := by
  obtain ⟨-, analog, -, -⟩ := nibble_ranges b
  exact analog

theorem channel_eq_setWidth (b : Byte) : (b &&& 0x0F).setWidth 4 = (b.setWidth 4 : Index4) := by
  revert b
  decide

theorem channel_eq_ofNat (b : Byte) : (b.setWidth 4 : Index4) = BitVec.ofNat 4 (b.toNat % 16) := by
  apply BitVec.eq_of_toNat_eq
  simp

/-- Outside sysex mode, with nothing pending or a command-class byte, the byte is taken as a header (rule R105). -/
theorem rx_header_of {s : State} {b : Byte} (hx : s.sysex = false) (h : s.rem = 0 ∨ ¬ b < 0x80) :
    exec (decodeRx s.sysex s.rem b) s = .next (s.takeHeader b) := by
  rw [exec_decodeRx, if_neg (by simp [hx]), if_neg fun e => h.elim e.1 fun h => h e.2]

/-- In sysex mode any byte but `0xF7` is a payload byte (rule R106). -/
theorem rx_payload {s : State} {b : Byte} (hx : s.sysex = true) (h : b ≠ 0xF7) :
    exec (decodeRx s.sysex s.rem b) s = execSysexPayload b s := by
  rw [exec_decodeRx, if_pos hx, if_neg h]

theorem rx_endSysex {s : State} (hx : s.sysex = true) : exec (decodeRx s.sysex s.rem 0xF7) s = .next s.toIdle := by
  rw [exec_decodeRx, if_pos hx, if_pos rfl]

/-- The stored payload byte, with the cell it goes to in bounds (rule R42). -/
theorem storePayload_eq {s : State} (h : s.sxcnt.toNat < 32) (b : Byte) :
    s.storePayload b = { s with buf := s.buf.set s.sxcnt.toNat b, sxcnt := s.sxcnt + 1 } := by
  rw [State.storePayload, State.storeCell, setIfInBounds_eq_set _ h]

/-- A payload byte where overflow truncates touches nothing but `BUF` and `SXCNT` (rules R106, R123). -/
theorem execSysexPayload_frame {s : State} (trunc : s.Truncates) (b : Byte) :
    ∃ t, execSysexPayload b s = .next t ∧ SameStore s t ∧ SameEncoder s t ∧ SameSent s t ∧ SameAnswers s t ∧
      SameOutside s t ∧ t.cmd = s.cmd ∧ t.rem = s.rem ∧ t.chan = s.chan ∧ t.sysex = s.sysex := by
  by_cases hn : s.sxcnt.toNat < 32
  · exact ⟨s.storePayload b, execSysexPayload_store hn, by simp [SameStore, SameEncoder, SameSent, SameAnswers, SameOutside]⟩
  · exact ⟨s, execSysexPayload_drop hn trunc, by simp [SameStore, SameEncoder, SameSent, SameAnswers, SameOutside]⟩

/-- Beyond the buffer only the fault remains of the three cases of a payload byte, where the parameter asks for it (entry U1). -/
theorem execSysexPayload_overflow {s : State} {b : Byte} (hn : 32 ≤ s.sxcnt.toNat) (hf : s.cfg.sysexOverflow = .fault) :
    execSysexPayload b s = .fault .sysexOverflow := by
  rcases execSysexPayload_cases b s with ⟨h, -⟩ | ⟨-, trunc, -⟩ | ⟨-, -, e⟩
  · omega
  · cases hf.symm.trans trunc
  · exact e

/-! ### Data bytes (rules R107, R109) -/

/-- What a data byte leaves alone. -/
theorem takeData_frame (s : State) (b : Byte) :
    SameEncoder s (s.takeData b) ∧ SameSent s (s.takeData b) ∧ SameAnswers s (s.takeData b) ∧
    SameOutside s (s.takeData b) ∧ (s.takeData b).chan = s.chan ∧ (s.takeData b).sysex = s.sysex ∧
    (s.takeData b).sxcnt = s.sxcnt := by
  simp [SameEncoder, SameSent, SameAnswers, SameOutside]

/-- The two data bytes of a frame: no register of the store before the second, which writes what the frame's command selects. -/
theorem takeData_both {s : State} (h : s.rem = 2) (d1 d2 : Byte) :
    SameStore s (s.takeData d1) ∧
    (∀ p, getReg ((s.takeData d1).takeData d2).din p =
      if s.cmd = 0x90 ∧ p = s.chan ∧ p.toNat < s.cfg.nPorts then (assemble d1 d2).setWidth 8 else getReg s.din p) ∧
    (∀ c, getReg ((s.takeData d1).takeData d2).ain c =
      if s.cmd = 0xE0 ∧ c = s.chan ∧ c.toNat < s.cfg.kChannels then assemble d1 d2 else getReg s.ain c) ∧
    ((s.takeData d1).takeData d2).vmaj = (if s.cmd = 0xF9 then d2.setWidth 7 else s.vmaj) ∧
    ((s.takeData d1).takeData d2).vmin = (if s.cmd = 0xF9 then d1.setWidth 7 else s.vmin) ∧
    ((s.takeData d1).takeData d2).cmd = 0x00 ∧ ((s.takeData d1).takeData d2).rem = 0 := by
  have rem1 : (s.takeData d1).rem = 1 := by rw [takeData_rem, h]; rfl
  obtain ⟨din, ain, vmaj, vmin, cmd⟩ := takeData_second_store rem1 d2
  have rem0 : ((s.takeData d1).takeData d2).rem = 0 := by rw [takeData_rem, rem1]; rfl
  refine ⟨takeData_store_of_rem_ne_one (by rw [h]; decide) d1, ?_⟩
  rw [takeData_first h] at din ain vmaj vmin cmd rem0 ⊢
  exact ⟨by simpa using din, by simpa using ain, vmaj, by simpa using vmin, cmd, rem0⟩

/-- What the two data bytes of a frame leave alone. -/
theorem takeData_both_frame (s : State) (d1 d2 : Byte) :
    SameEncoder s (s.takeData d1) ∧ SameEncoder s ((s.takeData d1).takeData d2) ∧
    SameSent s ((s.takeData d1).takeData d2) ∧ SameAnswers s ((s.takeData d1).takeData d2) ∧
    SameOutside s ((s.takeData d1).takeData d2) ∧ ((s.takeData d1).takeData d2).chan = s.chan ∧
    ((s.takeData d1).takeData d2).sysex = s.sysex := by
  simp [SameEncoder, SameSent, SameAnswers, SameOutside]

theorem isIdle_iff (s : State) : s.isIdle = true ↔ s.sysex = false ∧ s.rem = 0 := by
  simp [State.isIdle]

theorem regs_eq_of_getReg_ite {α : Type} {v w : Regs16 α} {P : Index4 → Prop} [DecidablePred P] {x : α}
    (h : ∀ p, getReg v p = if P p then x else getReg w p) (no : ∀ p, ¬ P p) : v = w :=
  regs_ext fun p => (h p).trans (if_neg (no p))

/-- The 8 bits a digital port keeps of two data bytes (rule R83). -/
theorem low_bits_assemble (d1 d2 : Byte) :
    (assemble d1 d2).setWidth 8 = BitVec.ofNat 8 (d1.toNat + 128 * (d2.toNat % 2)) := by
  rw [setWidth_assemble]
  apply BitVec.eq_of_toNat_eq
  simp only [BitVec.toNat_ofNat]
  omega

theorem toNat_assemble_of_data {d1 d2 : Byte} (h1 : d1 < 0x80) (h2 : d2 < 0x80) :
    (assemble d1 d2).toNat = d1.toNat + 128 * d2.toNat := by
  have h1 : d1.toNat < 128 := h1
  have h2 : d2.toNat < 128 := h2
  rw [toNat_assemble]
  omega

theorem toNat_setWidth_of_data {d : Byte} (h : d < 0x80) : (d.setWidth 7).toNat = d.toNat := by
  rw [BitVec.toNat_setWidth]
  exact Nat.mod_eq_of_lt h

/-! ### Ignored bytes, and bytes of a block, in a run -/

/-- An ignored command byte outside sysex mode leaves a run as it is (rule R155). -/
theorem feedRx_cons_ignored {s : State} {c : Byte} (hx : s.sysex = false) (hc : ¬ c < 0x80) (h : IgnoredByte c)
    (bs : List Byte) : feedRx (c :: bs) s = feedRx bs s := by
  rw [feedRx_cons_next (rx_header hx hc), takeHeader_ignored h]

theorem feedRx_append_next {as bs : List Byte} {s t : State} (h : feedRx as s = .next t) :
    feedRx (as ++ bs) s = feedRx bs t := by
  rw [feedRx_append, h]

/-- A `DIGITAL_MESSAGE` frame from any state outside sysex mode (rule R110). -/
theorem feedRx_digitalFrame {s : State} {h d1 d2 : Byte} (hx : s.sysex = false) (nibble : h &&& 0xF0 = 0x90) (h1 : d1 < 0x80)
    (h2 : d2 < 0x80) :
    (∃ u, feedRx [h, d1] s = .next u ∧ SameStore s u ∧ SameEncoder s u) ∧
    ∃ t, feedRx [h, d1, d2] s = .next t ∧
      (∀ p, getReg t.din p =
        if p = h.setWidth 4 ∧ p.toNat < s.cfg.nPorts then (assemble d1 d2).setWidth 8 else getReg s.din p) ∧
      t.ain = s.ain ∧ t.vmaj = s.vmaj ∧ t.vmin = s.vmin ∧ SameEncoder s t ∧ SameSent s t ∧ SameAnswers s t ∧
      SameOutside s t ∧ t.isIdle = true ∧ t.cmd = 0x00 := by
  obtain ⟨run1, run2⟩ := feedRx_frame hx (frameHeader_not_data (.inl nibble)) (takeHeader_digital nibble s) rfl hx h1 h2
  obtain ⟨store, din, ain, vmaj, vmin, cmd, rem⟩ :=
    takeData_both (s := s.awaitChannelData 0x90 (h.setWidth 4)) rfl d1 d2
  obtain ⟨encoder1, encoder, sent, answers, outside, -, sysex⟩ :=
    takeData_both_frame (s.awaitChannelData 0x90 (h.setWidth 4)) d1 d2
  exact ⟨⟨_, run1, store, encoder1⟩, _, run2, by simpa using din, regs_eq_of_getReg_ite ain (by simp), vmaj, vmin, encoder,
    sent, answers, outside, (isIdle_iff _).2 ⟨sysex.trans hx, rem⟩, cmd⟩

/-- An `ANALOG_MESSAGE` frame from any state outside sysex mode (rule R111). -/
theorem feedRx_analogFrame {s : State} {h d1 d2 : Byte} (hx : s.sysex = false) (nibble : h &&& 0xF0 = 0xE0) (h1 : d1 < 0x80)
    (h2 : d2 < 0x80) :
    (∃ u, feedRx [h, d1] s = .next u ∧ SameStore s u ∧ SameEncoder s u) ∧
    ∃ t, feedRx [h, d1, d2] s = .next t ∧
      (∀ c, getReg t.ain c =
        if c = h.setWidth 4 ∧ c.toNat < s.cfg.kChannels then assemble d1 d2 else getReg s.ain c) ∧
      t.din = s.din ∧ t.vmaj = s.vmaj ∧ t.vmin = s.vmin ∧ SameEncoder s t ∧ SameSent s t ∧ SameAnswers s t ∧
      SameOutside s t ∧ t.isIdle = true ∧ t.cmd = 0x00 := by
  obtain ⟨run1, run2⟩ :=
    feedRx_frame hx (frameHeader_not_data (.inr (.inl nibble))) (takeHeader_analog nibble s) rfl hx h1 h2
  obtain ⟨store, din, ain, vmaj, vmin, cmd, rem⟩ :=
    takeData_both (s := s.awaitChannelData 0xE0 (h.setWidth 4)) rfl d1 d2
  obtain ⟨encoder1, encoder, sent, answers, outside, -, sysex⟩ :=
    takeData_both_frame (s.awaitChannelData 0xE0 (h.setWidth 4)) d1 d2
  exact ⟨⟨_, run1, store, encoder1⟩, _, run2, by simpa using ain, regs_eq_of_getReg_ite din (by simp), vmaj, vmin, encoder,
    sent, answers, outside, (isIdle_iff _).2 ⟨sysex.trans hx, rem⟩, cmd⟩

/-- A block of any bytes, from any state outside sysex mode: the state before its end, and the end (rules R106, R124). -/
theorem feedRx_block {s : State} {payload : List Byte} (trunc : s.Truncates) (hx : s.sysex = false)
    (hb : ∀ b ∈ payload, b ≠ 0xF7) :
    ∃ u, feedRx (0xF0 :: payload) s = .next u ∧ feedRx (0xF0 :: payload ++ [0xF7]) s = .next u.toIdle ∧
      u.sysex = true ∧ SameStore s u ∧ SameEncoder s u ∧ SameSent s u ∧ SameAnswers s u ∧ SameOutside s u ∧
      u.chan = s.chan ∧ u.sxcnt.toNat = min payload.length 32 ∧
      ∀ (i : Nat) (h : i < 32), u.buf[i] = payload[i]?.getD s.buf[i] := by
  obtain ⟨u, run, inSysex, store, encoder, sent, answers, outside, chan, count, cells⟩ :=
    feedRx_payload payload s.enterSysex trunc rfl hb
  have start : feedRx (0xF0 :: payload) s = .next u := by
    rw [feedRx_cons_next (rx_header hx (by decide)), takeHeader_startSysex, run]
  have stop : feedRx (0xF0 :: payload ++ [0xF7]) s = .next u.toIdle := by
    rw [feedRx_append_next start, feedRx_cons_next (rx_endSysex inSysex), feedRx_nil]
  refine ⟨u, start, stop, inSysex, store, encoder, sent, answers, outside, chan, ?_, fun i h => ?_⟩
  · simpa using count (by simp)
  · simpa using cells i h

/-! ### The Decoder's half of the state (rules R28, R127) -/

/-- The Decoder's registers, the store and the parameters of `s`, with everything else as in `o`. -/
def State.withOthers (s o : State) : State :=
  { s with dout := o.dout, busy := o.busy, inputs := o.inputs, tx := o.tx, statuses := o.statuses, answers := o.answers }

/-- An outcome with its next state, if it has one, changed by `f`. -/
def mapNext (f : State → State) : Outcome State Fault Refusal → Outcome State Fault Refusal
  | .next s => .next (f s)
  | .fault r => .fault r
  | .refused r => .refused r

@[simp] theorem mapNext_next (f : State → State) (s : State) : mapNext f (.next s) = .next (f s) := rfl

theorem mapNext_ite (f : State → State) (c : Prop) [Decidable c] (a b : Outcome State Fault Refusal) :
    mapNext f (if c then a else b) = if c then mapNext f a else mapNext f b := apply_ite _ _ _ _

theorem dispatch_withOthers (s o : State) : (s.withOthers o).dispatch = s.dispatch.withOthers o := by
  unfold State.dispatch State.putDigitalPort State.putAnalogChannel
  simp only [apply_ite (fun t : State => t.withOthers o)]
  rfl

theorem dataStored_withOthers (s o : State) (b : Byte) : (s.withOthers o).dataStored b = (s.dataStored b).withOthers o := rfl

theorem takeData_withOthers (s o : State) (b : Byte) : (s.withOthers o).takeData b = (s.takeData b).withOthers o := by
  rw [takeData_eq, takeData_eq, dataStored_withOthers, dispatch_withOthers, apply_ite (fun t : State => t.withOthers o)]
  rfl

theorem takeHeader_withOthers (s o : State) (b : Byte) : (s.withOthers o).takeHeader b = (s.takeHeader b).withOthers o := by
  unfold State.takeHeader
  split_ifs <;> rfl

theorem execSysexPayload_withOthers (s o : State) (b : Byte) :
    execSysexPayload b (s.withOthers o) = mapNext (·.withOthers o) (execSysexPayload b s) := by
  rcases execSysexPayload_cases b s with ⟨hn, e⟩ | ⟨hn, trunc, e⟩ | ⟨hn, hf, e⟩ <;> rw [e]
  · exact execSysexPayload_store hn
  · exact execSysexPayload_drop (Nat.not_lt.2 hn) trunc
  · exact execSysexPayload_overflow hn hf

/-- A Decoder step reads and writes nothing outside the Decoder's half. -/
theorem rx_withOthers (s o : State) (b : Byte) :
    exec (decodeRx (s.withOthers o).sysex (s.withOthers o).rem b) (s.withOthers o) =
      mapNext (·.withOthers o) (exec (decodeRx s.sysex s.rem b) s) := by
  rw [exec_decodeRx, exec_decodeRx, mapNext_ite, mapNext_ite, mapNext_ite, execSysexPayload_withOthers,
    takeData_withOthers, takeHeader_withOthers]
  rfl

/-- So whatever it answers has everything else as it was. -/
theorem rx_next_withOthers {s t : State} {b : Byte} (h : exec (decodeRx s.sysex s.rem b) s = .next t) (o : State) :
    exec (decodeRx s.sysex s.rem b) (s.withOthers o) = .next (t.withOthers o) :=
  (rx_withOthers s o b).trans (congrArg (mapNext (·.withOthers o)) h)

theorem rx_frame {s t : State} {b : Byte} (h : exec (decodeRx s.sysex s.rem b) s = .next t) :
    SameEncoder s t ∧ SameSent s t ∧ SameAnswers s t ∧ SameOutside s t := by
  have self : t = t.withOthers s := Outcome.next.inj (h.symm.trans (rx_next_withOthers h s))
  have cfg : t.cfg = s.cfg := update_cfg (.rx b h)
  rw [self]
  exact ⟨⟨rfl, rfl⟩, ⟨rfl, rfl⟩, rfl, cfg, rfl⟩

theorem rx_tx {s t : State} {b : Byte} (h : exec (decodeRx s.sysex s.rem b) s = .next t) : t.tx = s.tx := by
  obtain ⟨-, ⟨tx, -⟩, -⟩ := rx_frame h
  exact tx

/-- The store changes only at a second data byte under a pending command (rule R122). -/
theorem rx_store {s t : State} {b : Byte} (h : exec (decodeRx s.sysex s.rem b) s = .next t) :
    SameStore s t ∨ (b < 0x80 ∧ s.sysex = false ∧ s.rem = 1 ∧ (s.cmd = 0x90 ∨ s.cmd = 0xE0 ∨ s.cmd = 0xF9)) := by
  rcases rx_next_cases h with ⟨-, -, rfl⟩ | ⟨-, -, -, rfl⟩ | ⟨-, -, -, rfl⟩ | ⟨hx, -, hb, rfl⟩ | ⟨-, -, rfl⟩
  · exact .inl ⟨rfl, rfl, rfl, rfl⟩
  · exact .inl ⟨rfl, rfl, rfl, rfl⟩
  · exact .inl ⟨rfl, rfl, rfl, rfl⟩
  · by_cases hr : s.rem = 1
    · by_cases hc : s.cmd = 0x90 ∨ s.cmd = 0xE0 ∨ s.cmd = 0xF9
      · exact .inr ⟨hb, hx, hr, hc⟩
      · obtain ⟨din, ain, vmaj, vmin, -⟩ := takeData_second_store hr b
        exact .inl ⟨regs_eq_of_getReg_ite din fun p e => hc (.inl e.1),
          regs_eq_of_getReg_ite ain fun c e => hc (.inr (.inl e.1)),
          vmaj.trans (if_neg fun e => hc (.inr (.inr e))), vmin.trans (if_neg fun e => hc (.inr (.inr e)))⟩
    · exact .inl (takeData_store_of_rem_ne_one hr b)
  · exact .inl (takeHeader_frame s b).1

/-! ### The obligations: single bytes -/

/-- Settles O18: the three arms of `Step1`. -/
theorem sysexModeFollowsStep1 : Obligations.SysexModeFollowsStep1 := by
  intro s b hx trunc
  refine ⟨fun h => ?_, fun h hn => ?_, fun h hn => ?_⟩
  · subst h
    exact rx_endSysex hx
  · rw [rx_payload hx h, execSysexPayload_store hn, storePayload_eq hn]
  · rw [rx_payload hx h, execSysexPayload_drop (by omega) trunc]

/-- Settles O19: the fault beyond the buffer, the store below it. -/
theorem sysexOverflowParameterFaults : Obligations.SysexOverflowParameterFaults := by
  intro s b hf
  refine ⟨fun hn => execSysexPayload_overflow hn hf, fun hn => ?_⟩
  exact (execSysexPayload_store hn).trans (congrArg Outcome.next (storePayload_eq hn b))

/-- Settles O20: the first data byte is stored, and the second writes what `takeData_second_store` says. -/
theorem pendingDataFollowsStep2 : Obligations.PendingDataFollowsStep2 := by
  intro s b hx hb
  refine ⟨fun hr => ?_, fun hr => ⟨s.takeData b, rx_data hx (by rw [hr]; decide) hb, ?_⟩⟩
  · rw [rx_data hx (by rw [hr]; decide) hb, takeData_first hr]
  · obtain ⟨din, ain, vmaj, vmin, cmd⟩ := takeData_second_store hr b
    obtain ⟨encoder, sent, answers, outside, chan, sysex, sxcnt⟩ := takeData_frame s b
    have buf : (s.takeData b).buf = s.buf.set 1 b := by
      rw [takeData_buf, hr]
      exact setIfInBounds_eq_set _ (by decide) b
    have rem : (s.takeData b).rem = 0 := by rw [takeData_rem, hr]; rfl
    refine ⟨buf, rem, cmd, chan, sysex.trans hx, sxcnt, encoder, sent, answers, outside, fun hc => ?_, fun hc => ?_,
      fun hc => ?_⟩ <;> simp only [hc] at din ain vmaj vmin
    · exact ⟨regs_eq_of_getReg_ite ain (by simp), vmaj, vmin, by simpa [setWidth_assemble] using din⟩
    · exact ⟨regs_eq_of_getReg_ite din (by simp), vmaj, vmin, by simpa [assemble_eq_ofNat] using ain⟩
    · exact ⟨regs_eq_of_getReg_ite din (by simp), regs_eq_of_getReg_ite ain (by simp), vmaj, vmin⟩

/-- Settles O21: the five cases of `takeHeader`. -/
theorem headerFollowsStep3 : Obligations.HeaderFollowsStep3 := by
  intro s b hx h
  have taken : exec (decodeRx s.sysex s.rem b) s = .next (s.takeHeader b) :=
    rx_header_of hx (h.imp_right Nat.not_lt.2)
  rw [taken, channel_eq_setWidth]
  refine ⟨?_, fun h => congrArg Outcome.next (takeHeader_digital h s), fun h => congrArg Outcome.next (takeHeader_analog h s),
    ?_, fun h1 h2 h3 h4 => congrArg Outcome.next (takeHeader_ignored ⟨h2, h3, h4, h1⟩ s)⟩
  · rintro rfl
    rfl
  · rintro rfl
    rfl

/-- Settles O22: each header is one update of the session, by definition. -/
theorem actingHeadersWriteTheSession : Obligations.ActingHeadersWriteTheSession := fun _ _ => ⟨rfl, rfl, rfl, rfl⟩

/-- Settles O23: the seventeen instructions are ignored ones. -/
theorem ignoredHeadersChangeNothing : Obligations.IgnoredHeadersChangeNothing := by
  intro s d n x
  and_intros <;> exact exec_ignored rfl s

/-- Settles O24: the end of a block, a payload byte stored or dropped, and a data byte. -/
theorem sessionBytesComplete : Obligations.SessionBytesComplete := by
  intro s d b
  exact ⟨rfl, fun trunc => execSysexPayload_frame trunc b,
    fun _ => ⟨s.takeData (d.setWidth 8), rfl, takeData_rem s _, takeData_frame s _⟩⟩

/-- Settles O25: `0xFF` is an ignored header outside sysex mode and a payload byte in it. -/
theorem receivedSystemResetResetsNothing : Obligations.ReceivedSystemResetResetsNothing := by
  intro s
  refine ⟨fun hx => ?_, fun hx => ?_⟩
  · rw [rx_header hx (by decide), takeHeader_ignored (by unfold IgnoredByte; decide)]
  · rw [hx]
    rfl

/-- Settles O32: an operation and a query leave the store alone, and a received byte does but for the case of `rx_store`. -/
theorem storeIsWrittenOnlyByASecondDataByte : Obligations.StoreIsWrittenOnlyByASecondDataByte := by
  intro s t tr rest hi h changed
  rw [step_cons hi] at h
  cases tr with
  | rx b => exact ⟨b, rfl, (rx_store h).resolve_left changed⟩
  | command op pin arg =>
    rw [runInput, runTransaction, exec_decodeCommand] at h
    split_ifs at h <;> cases h
    · exact absurd ⟨rfl, rfl, rfl, rfl⟩ changed
    · exact absurd ⟨rfl, rfl, rfl, rfl⟩ changed
  | query q idx =>
    rw [runInput, runTransaction, exec_decodeQuery] at h
    cases h
    exact absurd ⟨rfl, rfl, rfl, rfl⟩ changed

/-- Settles O33: the step is the same whatever stands outside the Decoder's half, and leaves it there. -/
theorem decoderStepsStayApartFromTheEncoder : Obligations.DecoderStepsStayApartFromTheEncoder := by
  intro s t b d w h
  obtain ⟨encoder, sent, answers, outside⟩ := rx_frame h
  have self : t = t.withOthers s := Outcome.next.inj (h.symm.trans (rx_next_withOthers h s))
  refine ⟨encoder, sent, answers, outside, ?_⟩
  rw [self]
  exact rx_next_withOthers h { s with dout := d, busy := w }

/-! ### The obligations: whole frames and blocks -/

/-- Settles O26: the frame's value, with the 8 bits kept, in the port of its header. -/
theorem digitalMessageFrameWritesThePort : Obligations.DigitalMessageFrameWritesThePort := by
  intro s n d1 d2 hx h1 h2
  obtain ⟨-, nibble, chan⟩ := headerCQ_digital n
  obtain ⟨first, t, run, din, rest⟩ := feedRx_digitalFrame hx nibble h1 h2
  refine ⟨first, t, run, fun p => ?_, rest⟩
  rw [din p, chan, low_bits_assemble]

/-- Settles O27: the frame's value, all 14 bits, in the channel of its header. -/
theorem analogMessageFrameWritesTheChannel : Obligations.AnalogMessageFrameWritesTheChannel := by
  intro s n d1 d2 hx h1 h2
  obtain ⟨-, nibble, chan⟩ := headerCQ_analog n
  obtain ⟨first, t, run, ain, rest⟩ := feedRx_analogFrame hx nibble h1 h2
  refine ⟨first, t, run, fun c => ?_, rest⟩
  rw [ain c, chan, apply_ite BitVec.toNat, toNat_assemble_of_data h1 h2]

/-- Settles O28: a version frame's two bytes write the pair, the minor number first. -/
theorem reportVersionFrameWritesBothNumbers : Obligations.ReportVersionFrameWritesBothNumbers := by
  intro s d1 d2 hx h1 h2
  obtain ⟨run1, run2⟩ := feedRx_frame hx (by decide) (takeHeader_version s) rfl hx h1 h2
  obtain ⟨store, din, ain, vmaj, vmin, cmd, rem⟩ := takeData_both (s := s.awaitData 0xF9) rfl d1 d2
  obtain ⟨encoder1, encoder, sent, answers, outside, chan, sysex⟩ := takeData_both_frame (s.awaitData 0xF9) d1 d2
  refine ⟨⟨_, run1, store, encoder1, takeData_chan _ _⟩, _, run2, ?_, ?_, regs_eq_of_getReg_ite din (by simp),
    regs_eq_of_getReg_ite ain (by simp), chan, encoder, sent, answers, outside, (isIdle_iff _).2 ⟨sysex.trans hx, rem⟩, cmd⟩
  · exact (congrArg BitVec.toNat vmin).trans (toNat_setWidth_of_data h1)
  · exact (congrArg BitVec.toNat vmaj).trans (toNat_setWidth_of_data h2)

/-- Settles O29: a command-class byte is taken as a header whatever is pending, and a block leaves nothing pending. -/
theorem commandByteWhilePending : Obligations.CommandByteWhilePending := by
  intro s b hx _ hb
  have notData : ¬ b < 0x80 := Nat.not_lt.2 hb
  have digital := digital_range_iff b
  have analog := analog_range_iff b
  rw [rx_header hx notData, ← channel_eq_ofNat]
  refine ⟨fun h => ?_, ?_, ?_, fun h => ?_⟩
  · rcases h with h | h
    · rw [takeHeader_digital (digital.1 h), digital.1 h, State.awaitChannelData]
    · rw [takeHeader_analog (analog.1 h), analog.1 h, State.awaitChannelData]
  · rintro rfl
    rfl
  · rintro rfl
    refine ⟨rfl, fun payload trunc bytes => ?_⟩
    obtain ⟨u, -, stop, -, store, -⟩ := feedRx_block trunc hx bytes
    exact ⟨u.toIdle, stop, rfl, rfl, store⟩
  · refine congrArg Outcome.next (takeHeader_ignored ⟨fun e => ?_, fun e => ?_, ?_, ?_⟩ s)
    · have := digital.2 e
      omega
    · have := analog.2 e
      omega
    · rintro rfl
      revert h
      decide
    · rintro rfl
      revert h
      decide

/-- Settles O30: the ignored byte is met outside sysex mode, after the header and after the first data byte alike. -/
theorem ignoredCommandInsideAFrameIsTransparent : Obligations.IgnoredCommandInsideAFrameIsTransparent := by
  intro s h d1 c d2 hx hh h1 _ hc hc1 hc2 hc3 hc4
  have header : FrameHeader h := hh.imp (digital_range_iff h).1 (Or.imp_left (analog_range_iff h).1)
  have ignored : IgnoredByte c :=
    ⟨fun e => hc1 ((digital_range_iff c).2 e), fun e => hc2 ((analog_range_iff c).2 e), hc3, hc4⟩
  have notData : ¬ c < 0x80 := Nat.not_lt.2 hc
  obtain ⟨rem, sysex⟩ := takeHeader_frameHeader header s
  have first : exec (decodeRx (s.takeHeader h).sysex (s.takeHeader h).rem d1) (s.takeHeader h) =
      .next ((s.takeHeader h).takeData d1) := rx_data (sysex.trans hx) (by rw [rem]; decide) h1
  have outside : ((s.takeHeader h).takeData d1).sysex = false := (takeData_sysex _ _).trans (sysex.trans hx)
  simp only [feedRx_cons_next (rx_header hx (frameHeader_not_data header))]
  exact ⟨by rw [feedRx_cons_next first, feedRx_cons_ignored outside notData ignored, feedRx_cons_next first],
    feedRx_cons_ignored (sysex.trans hx) notData ignored _⟩

/-- Settles O34: the block's bytes, and its end. -/
theorem sysexBlockIsContained : Obligations.SysexBlockIsContained := by
  intro s payload trunc hx bytes
  obtain ⟨u, start, stop, rest⟩ := feedRx_block trunc hx bytes
  have ⟨_, store, encoder, sent, answers, outside, _⟩ := rest
  exact ⟨⟨u, start, rest⟩, u.toIdle, stop, rfl, rfl, store, encoder, sent, answers, outside⟩

end Sys2Proof.Machine
end

section
/-! PROOFS. The Encoder (41_encoder.md): `digitalWrite` and its mirror, the counts and classes of the bytes sent, what transmits, and the
byte-by-byte form of an operation. -/

namespace Sys2Proof.Machine

open Host (Outcome)

/-! ### digitalWrite (rule R93) -/

/-- The mirrored byte of a pin's port after `digitalWrite`. -/
def State.mirrored (s : State) (pin : Byte) (value : BitVec 1) : Byte :=
  writeBit (getReg s.dout (pinReg pin)) (pinBit pin) value

theorem digitalWriteResult_outOfRange {s : State} {pin : Byte} (h : s.cfg.nPorts ≤ pin.toNat / 8) (value : BitVec 1) :
    digitalWriteResult s pin value = s.outOfBounds := if_pos ((pinOutOfRange_iff s.cfg pin).2 h)

theorem digitalWriteResult_inRange {s : State} {pin : Byte} (h : pin.toNat / 8 < s.cfg.nPorts) (value : BitVec 1) :
    digitalWriteResult s pin value =
      { status := .ok
        bytes := [0x90 ||| (pin >>> 3), s.mirrored pin value &&& 0x7F, s.mirrored pin value >>> 7]
        dout := setReg s.dout (pinReg pin) (s.mirrored pin value) } :=
  if_neg fun out => Nat.not_lt.2 ((pinOutOfRange_iff s.cfg pin).1 out) h

theorem exec_digitalWrite (s : State) (pin : Byte) (value : BitVec 1) :
    exec (.digitalWrite pin value) s = .next (s.complete (digitalWriteResult s pin value)) := rfl

/-- A pin in range, with legal parameters: its port's register and header, as numbers (rules R40, R93). -/
theorem pin_fields_inRange {s : State} {pin : Byte} (wf : s.cfg.wf = true) (h : pin.toNat / 8 < s.cfg.nPorts) :
    (pinReg pin).toNat = pin.toNat / 8 ∧ 0x90 ||| (pin >>> 3) = BitVec.ofNat 8 (0x90 + pin.toNat / 8) := by
  obtain ⟨-, ports, -, -⟩ := (Config.wf_iff s.cfg).1 wf
  obtain ⟨-, -, -, fields, -⟩ := pin_fields pin
  exact fields (by omega)

/-- The bits of the mirrored byte: the pin's is the value written, the others stay (rules R93, R101). -/
theorem mirrored_getLsbD (s : State) (pin : Byte) (value : BitVec 1) {k : Nat} (hk : k < 8) :
    (s.mirrored pin value).getLsbD k =
      if k = pin.toNat % 8 then value == 1 else (getReg s.dout (pinReg pin)).getLsbD k := by
  obtain ⟨-, bit, -⟩ := pin_fields pin
  rw [State.mirrored, bit]
  exact getLsbD_writeBit _ _ (Nat.mod_lt _ (by decide)) value k hk

/-! ### Statuses (rules R134, R135) -/

theorem encoderResult_digitalWrite (s : State) (pin arg : Byte) :
    encoderResult s 1 pin arg = digitalWriteResult s pin (arg.setWidth 1) := rfl

/-- Of the four operations only `digitalWrite` out of range ends `OOB`. -/
theorem encoderResult_oob_iff (s : State) (op : BitVec 2) (pin arg : Byte) :
    (encoderResult s op pin arg).status = .oob ↔ op = 1 ∧ s.cfg.nPorts ≤ pin.toNat / 8 := by
  by_cases h1 : op = 1
  · subst h1
    rw [encoderResult_digitalWrite]
    by_cases hp : s.cfg.nPorts ≤ pin.toNat / 8
    · simp [digitalWriteResult_outOfRange hp, State.outOfBounds, hp]
    · simp [digitalWriteResult_inRange (Nat.not_le.1 hp), hp]
  · refine iff_of_false ?_ fun e => h1 e.1
    rw [encoderResult, if_neg h1]
    split_ifs <;> simp [pinModeResult, analogWriteResult, requestReportsResult, State.emitted]

theorem queryAnswer_oob_iff (s : State) (q : BitVec 2) (idx : Byte) :
    (queryAnswer s q idx).status = .oob ↔
      (q = 0 ∧ s.cfg.nPorts ≤ idx.toNat / 8) ∨ (q = 1 ∧ s.cfg.kChannels ≤ idx.toNat) := by
  unfold queryAnswer
  split_ifs with h0 h1 h2
  · rw [digitalPinAnswer, ← pinOutOfRange_iff]
    split_ifs with hr <;> simp [h0, hr, outOfBoundsAnswer, returned]
  · rw [analogChannelAnswer, ← channelOutOfRange_iff]
    split_ifs with hr <;> simp [h1, hr, outOfBoundsAnswer, returned]
  · simp [h2, versionAnswer, returned]
  · simp only [BitVec.ofNat_eq_ofNat] at h0 h1
    simp [h0, h1, unassignedAnswer, returned]

/-! ### What one instruction does outside the Decoder's half -/

theorem tableRow_decodeCommand (op : BitVec 2) (pin arg : Byte) : (tableRow (decodeCommand op pin arg)).1 = .cmdPort := by
  unfold decodeCommand
  split_ifs <;> rfl

theorem tableRow_decodeQuery (q : BitVec 2) (idx : Byte) : (tableRow (decodeQuery q idx)).1 = .queryPort := by
  unfold decodeQuery
  split_ifs <;> rfl

theorem decodeCommand_eq_digitalWrite_iff (op : BitVec 2) (pin arg pin' : Byte) (v : BitVec 1) :
    decodeCommand op pin arg = .digitalWrite pin' v ↔ op = 1 ∧ pin = pin' ∧ arg.setWidth 1 = v := by
  unfold decodeCommand
  split_ifs <;> simp_all

theorem decodeQuery_eq_readDigitalPin_iff (q : BitVec 2) (idx pin : Byte) :
    decodeQuery q idx = .readDigitalPin pin ↔ q = 0 ∧ idx = pin := by
  unfold decodeQuery
  split_ifs <;> simp_all

theorem decodeQuery_eq_readAnalogChannel_iff (q : BitVec 2) (idx channel : Byte) :
    decodeQuery q idx = .readAnalogChannel channel ↔ q = 1 ∧ idx = channel := by
  unfold decodeQuery
  split_ifs <;> simp_all

/-- An instruction is a host operation, or a query, or it touches neither the Encoder nor a host port (rules R28, R96). -/
theorem exec_cases {i : Instr} {s t : State} (h : exec i s = .next t) :
    (∃ op pin arg, i = decodeCommand op pin arg ∧ t = s.complete (encoderResult s op pin arg)) ∨
    (∃ q idx, i = decodeQuery q idx ∧ t = s.answer (queryAnswer s q idx)) ∨
    ((tableRow i).1 ≠ .cmdPort ∧ (tableRow i).1 ≠ .queryPort ∧ SameEncoder s t ∧ SameSent s t ∧ SameAnswers s t) := by
  cases i with
  | pinMode pin mode => exact .inl ⟨0, pin, mode, rfl, (Outcome.next.inj h).symm⟩
  | digitalWrite pin v =>
    have narrow : (v.setWidth 8).setWidth 1 = v := by simp
    refine .inl ⟨1, pin, v.setWidth 8, congrArg (Instr.digitalWrite pin) narrow.symm, ?_⟩
    rw [encoderResult_digitalWrite, narrow]
    exact (Outcome.next.inj h).symm
  | analogWrite pin v => exact .inl ⟨2, pin, v, rfl, (Outcome.next.inj h).symm⟩
  | requestReports => exact .inl ⟨3, 0, 0, rfl, (Outcome.next.inj h).symm⟩
  | readDigitalPin pin => exact .inr (.inl ⟨0, pin, rfl, (Outcome.next.inj h).symm⟩)
  | readAnalogChannel channel => exact .inr (.inl ⟨1, channel, rfl, (Outcome.next.inj h).symm⟩)
  | readVersion => exact .inr (.inl ⟨2, 0, rfl, (Outcome.next.inj h).symm⟩)
  | queryUnassigned => exact .inr (.inl ⟨3, 0, rfl, (Outcome.next.inj h).symm⟩)
  | sysexPayload b =>
    rcases execSysexPayload_cases b s with ⟨-, e⟩ | ⟨-, -, e⟩ | ⟨-, -, e⟩ <;> cases e.symm.trans h <;>
      simp [tableRow, SameEncoder, SameSent, SameAnswers]
  | _ =>
    cases h
    simp [tableRow, SameEncoder, SameSent, SameAnswers]

/-! ### Byte by byte (rules R44, R91) -/

theorem feed_accept (s : State) (op : BitVec 2) (pin arg : Byte) (is : List Input) :
    feed (.accept op pin arg :: is) s = feed is (s.acceptOperation op pin arg) := rfl

theorem feed_take (s : State) (is : List Input) : feed (.take :: is) s = feed is s.takeByte := rfl

/-- The Transport takes `k` of the bytes of an operation in progress, not the last. -/
theorem feed_takes (k : Nat) : ∀ (s : State) (bytes : List Byte) (st : Status), k < bytes.length →
    ∀ is, feed (List.replicate k .take ++ is) { s with busy := some ⟨bytes, st⟩ } =
      feed is { s with busy := some ⟨bytes.drop k, st⟩, tx := s.tx ++ bytes.take k } := by
  induction k with
  | zero =>
    intro s bytes st _ is
    simp
  | succ k ih =>
    intro s bytes st h is
    match bytes, h with
    | b :: c :: rest, h =>
      calc feed (List.replicate (k + 1) .take ++ is) { s with busy := some ⟨b :: c :: rest, st⟩ }
          = feed (List.replicate k .take ++ is)
              { ({ s with tx := s.tx ++ [b] } : State) with busy := some ⟨c :: rest, st⟩ } := rfl
        _ = _ := by rw [ih _ _ _ (by simpa using h)]; simp

/-- The state in which an operation with bytes to send has been accepted. -/
theorem acceptOperation_of_bytes {s : State} {op : BitVec 2} {pin arg : Byte} (free : s.busy = none)
    (h : (encoderResult s op pin arg).bytes ≠ []) :
    (encoderResult s op pin arg).status = .ok ∧
    s.acceptOperation op pin arg =
      { ({ s with dout := (encoderResult s op pin arg).dout } : State) with
        busy := some ⟨(encoderResult s op pin arg).bytes, .ok⟩ } := by
  rcases acceptOperation_cases s op pin arg with ⟨hb, -⟩ | ⟨-, hn, -⟩ | ⟨-, -, ok, e⟩
  · rw [free] at hb
    cases hb
  · exact absurd hn h
  · exact ⟨ok, e⟩

/-- The atomic form of an operation offered on a free command port (rule R91). -/
theorem feed_command {s : State} (free : s.busy = none) (op : BitVec 2) (pin arg : Byte) :
    feed [.port (.command op pin arg)] s = .next (s.complete (encoderResult s op pin arg)) := by
  have run : runInput (.port (.command op pin arg)) s = .next (s.complete (encoderResult s op pin arg)) := by
    rw [runInput, runTransaction, exec_decodeCommand, free]
    rfl
  rw [feed_cons_next run, feed_nil]

/-! ### TX -/

theorem acceptOperation_tx (s : State) (op : BitVec 2) (pin arg : Byte) : (s.acceptOperation op pin arg).tx = s.tx := by
  rcases acceptOperation_cases s op pin arg with ⟨-, e⟩ | ⟨-, bytes, e⟩ | ⟨-, -, -, e⟩ <;> rw [e]
  rw [complete_tx, bytes, List.append_nil]

theorem transmits_nothing {s t : State} {P : Prop} (h : t.tx = s.tx) : ∃ sent, t.tx = s.tx ++ sent ∧ (sent ≠ [] → P) :=
  ⟨[], by rw [h, List.append_nil], fun ne => absurd rfl ne⟩

theorem takeByte_tx (s : State) : ∃ sent, s.takeByte.tx = s.tx ++ sent ∧ (sent ≠ [] → s.busy ≠ none) := by
  rcases takeByte_cases s with ⟨-, e⟩ | ⟨st, -, e⟩ | ⟨b, st, hb, e⟩ | ⟨b, c, rest, st, hb, e⟩ <;> rw [e]
  · exact transmits_nothing rfl
  · exact transmits_nothing rfl
  · exact ⟨[b], rfl, by simp [hb]⟩
  · exact ⟨[b], rfl, by simp [hb]⟩

/-- The Encoder's half of an edge transmits the byte the Transport takes, if it takes one. -/
theorem edgeEncoder_tx (s : State) (p : PinsIn) :
    ∃ sent, (s.edgeEncoder p).tx = s.tx ++ sent ∧ (sent ≠ [] → p.txReady = true ∧ s.busy ≠ none) := by
  have same : (s.edgeEncoder p).tx = (s.edgeTaken p).tx := by
    rw [State.edgeEncoder, apply_ite State.tx, acceptOperation_tx, ite_self]
  rw [same, State.edgeTaken]
  split_ifs with ready
  · obtain ⟨sent, e, busy⟩ := takeByte_tx s
    exact ⟨sent, e, fun h => ⟨ready, busy h⟩⟩
  · exact transmits_nothing rfl

/-! ### The obligations -/

/-- Settles O42: out of range nothing but the status, in range the mirrored byte is stored and sent. -/
theorem digitalWriteUpdatesTheMirrorAndSendsThePort : Obligations.DigitalWriteUpdatesTheMirrorAndSendsThePort := by
  intro s pin value wf
  refine ⟨fun out => ?_, fun inRange => ?_⟩
  · rw [exec_digitalWrite, digitalWriteResult_outOfRange out]
    simp [State.complete, State.outOfBounds]
  · obtain ⟨reg, header⟩ := pin_fields_inRange wf inRange
    obtain ⟨-, -, index, -, -⟩ := pin_fields pin
    obtain ⟨low, high, -, -⟩ := split_fields (s.mirrored pin value)
    refine ⟨_, s.mirrored pin value, rfl, ?_⟩
    obtain ⟨store, session, answers, outside, busy⟩ := complete_frame s (digitalWriteResult s pin value)
    refine ⟨?_, ?_, ?_, fun p k hk => ?_, busy, store, session, answers, outside⟩
    · rw [complete_dout, digitalWriteResult_inRange inRange, ← index, getReg_setReg, if_pos rfl]
    · rw [complete_tx, digitalWriteResult_inRange inRange, header, low, high]
    · rw [complete_statuses, digitalWriteResult_inRange inRange]
    · rw [complete_dout, digitalWriteResult_inRange inRange, getReg_setReg]
      by_cases hp : p = pinReg pin
      · rw [if_pos hp, mirrored_getLsbD s pin value hk, hp, reg]
        simp
      · have other : p.toNat ≠ pin.toNat / 8 := fun e => hp (BitVec.eq_of_toNat_eq (e.trans reg.symm))
        simp [hp, other]

/-- Settles O45: the bytes of each operation, and their classes. -/
theorem encoderByteCountsAndClasses : Obligations.EncoderByteCountsAndClasses := by
  intro s pin arg
  have header : ∀ pin : Byte, 128 ≤ ((0x90 : Byte) ||| (pin >>> 3)).toNat := by decide
  have analogHeader : ∀ n : Fin 16, 128 ≤ (BitVec.ofNat 8 (0xE0 + n)).toNat := by decide
  have halves : ∀ m : Byte, (m &&& 0x7F).toNat < 128 ∧ (m >>> 7).toNat ≤ 1 := by decide
  refine ⟨⟨0xF4, rfl, by decide⟩, fun out => ?_, fun inRange => ?_, ?_, ?_⟩
  · rw [encoderResult_digitalWrite, digitalWriteResult_outOfRange out]
    rfl
  · rw [encoderResult_digitalWrite, digitalWriteResult_inRange inRange]
    exact ⟨_, _, _, rfl, header pin, halves _⟩
  · obtain ⟨low, high, -, -⟩ := split_fields arg
    rw [encoderResult_analogWrite, ← low, ← high]
    exact ⟨_, _, _, _, rfl, by decide, analogHeader ⟨pin.toNat % 16, Nat.mod_lt _ (by decide)⟩, halves arg⟩
  · have same : (encoderResult s 3 pin arg).bytes = (encoderResult State.reset 3 0 0).bytes := rfl
    rw [same]
    refine ⟨rfl, fun i b hb => ?_⟩
    obtain ⟨hi, rfl⟩ := List.getElem?_eq_some_iff.1 hb
    clear hb
    revert i
    decide

/-- Settles O47: of the instructions only an operation writes the mirror, and of the operations only `digitalWrite`. -/
theorem mirrorIsWrittenOnlyByDigitalWrite : Obligations.MirrorIsWrittenOnlyByDigitalWrite := by
  intro i s t h changed
  rcases exec_cases h with ⟨op, pin, arg, rfl, rfl⟩ | ⟨q, idx, -, rfl⟩ | ⟨-, -, ⟨dout, -⟩, -⟩
  · rcases encoderResult_dout_cases s op pin arg with same | ⟨rfl, -⟩
    · exact absurd same changed
    · exact ⟨pin, arg.setWidth 1, rfl⟩
  · exact absurd rfl changed
  · exact absurd dout changed

/-- Settles O48, input by input. -/
theorem onlyTheEncoderTransmits : Obligations.OnlyTheEncoderTransmits := by
  intro s t h
  cases hi : s.inputs with
  | nil =>
    rw [step_nil hi] at h
    cases h
    exact transmits_nothing rfl
  | cons i rest =>
    rw [step_cons hi] at h
    cases i with
    | port tr =>
      cases tr with
      | rx b => exact transmits_nothing (rx_tx (s := { s with inputs := rest }) h)
      | command op pin arg =>
        rw [runInput, runTransaction, exec_decodeCommand] at h
        split_ifs at h <;> cases h
        · exact transmits_nothing rfl
        · exact ⟨_, rfl, fun _ => .inl ⟨op, pin, arg, rest, rfl⟩⟩
      | query q idx =>
        rw [runInput, runTransaction, exec_decodeQuery] at h
        cases h
        exact transmits_nothing rfl
    | accept op pin arg =>
      cases h
      exact transmits_nothing (acceptOperation_tx _ op pin arg)
    | take =>
      cases h
      obtain ⟨sent, e, busy⟩ := takeByte_tx { s with inputs := rest }
      exact ⟨sent, e, fun ne => .inr (.inl ⟨rest, rfl, busy ne⟩)⟩
    | reset lost =>
      cases h
      exact transmits_nothing rfl
    | edge p =>
      obtain ⟨sent, e, busy⟩ := edgeEncoder_tx { s with inputs := rest } p
      rw [runInput, clockEdge_eq] at h
      split_ifs at h
      · cases h
        exact transmits_nothing rfl
      · exact ⟨sent, (rx_tx h).trans e, fun ne => .inr (.inr ⟨p, rest, rfl, busy ne⟩)⟩
      · cases h
        exact ⟨sent, e, fun ne => .inr (.inr ⟨p, rest, rfl, busy ne⟩)⟩

/-- Settles O49: the bytes but the last are taken with the operation in progress, and the last ends it. -/
theorem byteByByteOperationEqualsTheAtomicOne : Obligations.ByteByByteOperationEqualsTheAtomicOne := by
  intro s op pin arg free
  rw [feed_command free, feed_accept]
  by_cases h : (encoderResult s op pin arg).bytes = []
  · rcases acceptOperation_cases s op pin arg with ⟨hb, -⟩ | ⟨-, -, e⟩ | ⟨-, hn, -⟩
    · rw [free] at hb
      cases hb
    · rw [e, h]
      rfl
    · exact absurd h hn
  · obtain ⟨ok, e⟩ := acceptOperation_of_bytes free h
    obtain ⟨init, last, cut⟩ := (List.eq_nil_or_concat' (encoderResult s op pin arg).bytes).resolve_left h
    have length : init.length < (encoderResult s op pin arg).bytes.length := by simp [cut]
    have takes : List.replicate (encoderResult s op pin arg).bytes.length Input.take =
        List.replicate init.length .take ++ [.take] := by
      rw [cut, List.length_append, List.length_singleton, List.replicate_succ']
    rw [takes, e, feed_takes init.length _ _ _ length, feed_take, feed_nil, State.complete, ok, cut, List.drop_left,
      List.take_left, ← List.append_assoc, free]
    rfl

/-- Settles O50: the bytes taken stay on TX, and the reset ends the operation with no status. -/
theorem resetTruncatesTheOperationInProgress : Obligations.ResetTruncatesTheOperationInProgress := by
  intro s op pin arg k lost free hk
  have bytes : (encoderResult s op pin arg).bytes ≠ [] := List.ne_nil_of_length_pos (by omega)
  rw [List.cons_append, feed_accept, (acceptOperation_of_bytes free bytes).2, feed_takes k _ _ _ hk]
  rfl

/-- Settles O55: an operation's status and a query's are their results'; every other instruction reports nothing. -/
theorem outOfBoundsOnlyInThreeOperations : Obligations.OutOfBoundsOnlyInThreeOperations := by
  intro i s t h
  rcases exec_cases h with ⟨op, pin, arg, rfl, rfl⟩ | ⟨q, idx, rfl, rfl⟩ | ⟨notCmd, notQuery, -, ⟨-, statuses⟩, answers⟩
  · have row := tableRow_decodeCommand op pin arg
    refine ⟨?_, iff_of_false (by simp) ?_⟩
    · simp [encoderResult_oob_iff, decodeCommand_eq_digitalWrite_iff]
    · rintro (⟨pin', e, -⟩ | ⟨channel, e, -⟩) <;> rw [e] at row <;> cases row
  · have row := tableRow_decodeQuery q idx
    refine ⟨iff_of_false (by simp) ?_, ?_⟩
    · rintro ⟨pin', v, e, -⟩
      rw [e] at row
      cases row
    · have status : (∃ d, queryAnswer s q idx = ⟨.oob, d⟩) ↔ (queryAnswer s q idx).status = .oob :=
        ⟨fun ⟨d, e⟩ => by rw [e], fun e => ⟨(queryAnswer s q idx).data, by rw [← e]⟩⟩
      simp [status, queryAnswer_oob_iff, decodeQuery_eq_readDigitalPin_iff, decodeQuery_eq_readAnalogChannel_iff]
  · refine ⟨iff_of_false (by simp [statuses]) ?_, iff_of_false (by simp [answers]) ?_⟩
    · rintro ⟨pin', v, rfl, -⟩
      exact notCmd rfl
    · rintro (⟨pin', rfl, -⟩ | ⟨channel, rfl, -⟩) <;> exact notQuery rfl

end Sys2Proof.Machine
end

section
/-! PROOFS. The Pin State Store (40_store.md): its write micro-operations and its queries. -/

namespace Sys2Proof.Machine

open Host (Outcome)

/-! ### Values on the query port -/

/-- The answer to a pin's query is its bit (rules R79, R85). -/
theorem pinValue_eq (port pin : Byte) : pinValue port pin = if port.getLsbD (pin.toNat % 8) then 1 else 0 := by
  obtain ⟨-, bit, -⟩ := pin_fields pin
  rw [pinValue, bit]
  have all : ∀ (port : Byte) (k : Fin 8),
      ((port >>> k.val) &&& 1).setWidth 14 = if port.getLsbD k then (1 : Value14) else 0 := by decide
  exact all port ⟨pin.toNat % 8, Nat.mod_lt _ (by decide)⟩

/-- The packing `{VMAJ, VMIN}` as a number (rule R87). -/
theorem append_eq_ofNat (major minor : Data7) :
    (major ++ minor : Value14) = BitVec.ofNat 14 (128 * major.toNat + minor.toNat) := by
  have h1 := major.isLt
  have h2 := minor.isLt
  apply BitVec.eq_of_toNat_eq
  rw [BitVec.toNat_append, ← Nat.shiftLeft_add_eq_or_of_lt h2, Nat.shiftLeft_eq, BitVec.toNat_ofNat]
  omega

theorem digitalPinAnswer_inRange {s : State} {pin : Byte} (h : pin.toNat / 8 < s.cfg.nPorts) :
    digitalPinAnswer s pin = returned (pinValue (getReg s.din (pinReg pin)) pin) :=
  if_neg fun out => Nat.not_lt.2 ((pinOutOfRange_iff s.cfg pin).1 out) h

theorem digitalPinAnswer_outOfRange {s : State} {pin : Byte} (h : s.cfg.nPorts ≤ pin.toNat / 8) :
    digitalPinAnswer s pin = outOfBoundsAnswer := if_pos ((pinOutOfRange_iff s.cfg pin).2 h)

theorem analogChannelAnswer_inRange {s : State} {channel : Byte} (h : channel.toNat < s.cfg.kChannels) :
    analogChannelAnswer s channel = returned (getReg s.ain (channelReg channel)) :=
  if_neg fun out => Nat.not_lt.2 ((channelOutOfRange_iff s.cfg channel).1 out) h

theorem analogChannelAnswer_outOfRange {s : State} {channel : Byte} (h : s.cfg.kChannels ≤ channel.toNat) :
    analogChannelAnswer s channel = outOfBoundsAnswer := if_pos ((channelOutOfRange_iff s.cfg channel).2 h)

/-- An answer is read from the parameters, the store and the version alone (rule R88). -/
theorem queryAnswer_congr {s s' : State} (cfg : s'.cfg = s.cfg) (store : SameStore s s') (q : BitVec 2) (idx : Byte) :
    queryAnswer s' q idx = queryAnswer s q idx := by
  obtain ⟨din, ain, vmaj, vmin⟩ := store
  simp [queryAnswer, digitalPinAnswer, analogChannelAnswer, versionAnswer, cfg, din, ain, vmaj, vmin]

theorem runInput_query (s : State) (q : BitVec 2) (idx : Byte) :
    runInput (.port (.query q idx)) s = .next (s.answer (queryAnswer s q idx)) := exec_decodeQuery s q idx

/-- `decodeDispatch` and `Dispatch` select by the same tests on `CMD` (rule R109). -/
theorem decodeDispatch_cases (s : State) :
    (∃ i, decodeDispatch s.cmd s.chan s.buf[0] s.buf[1] = .ok i ∧ exec i s = .next s.dispatch) ∨
    (decodeDispatch s.cmd s.chan s.buf[0] s.buf[1] = .error .noMultiByteCommand ∧ s.dispatch = s) := by
  rcases dispatch_cases s with ⟨hc, e⟩ | ⟨hc, e⟩ | ⟨hc, e⟩ | ⟨h1, h2, h3, e⟩ <;> rw [e]
  · exact .inl ⟨_, if_pos hc, rfl⟩
  · exact .inl ⟨.setAnalogChannel s.chan (assemble s.buf[0] s.buf[1]), by rw [decodeDispatch, hc]; rfl, rfl⟩
  · exact .inl ⟨.setVersion (s.buf[1].setWidth 7) (s.buf[0].setWidth 7), by rw [decodeDispatch, hc]; rfl, rfl⟩
  · exact .inr ⟨by rw [decodeDispatch, if_neg h1, if_neg h2, if_neg h3], rfl⟩

/-! ### The obligations -/

/-- Settles O38: written where the port has a register, dropped where not. -/
theorem setDigitalPortWritesLowEightBits : Obligations.SetDigitalPortWritesLowEightBits := by
  intro s port value
  have low : value.extractLsb' 0 8 = value.setWidth 8 := (BitVec.setWidth_eq_extractLsb' (by decide)).symm
  rw [low]
  refine ⟨fun h => ⟨congrArg Outcome.next (if_pos h), fun p => getReg_setReg s.din port p _⟩, fun h => ?_⟩
  exact congrArg Outcome.next (if_neg (Nat.not_lt.2 h))

/-- Settles O39: written where the channel has a register, dropped where not. -/
theorem setAnalogChannelWritesAllBits : Obligations.SetAnalogChannelWritesAllBits := by
  intro s channel value
  refine ⟨fun h => ⟨congrArg Outcome.next (if_pos h), fun c => getReg_setReg s.ain channel c value⟩, fun h => ?_⟩
  exact congrArg Outcome.next (if_neg (Nat.not_lt.2 h))

/-- Settles O40: what `CMD` selects is run, or `CMD` selects nothing and nothing is written. -/
theorem dispatchRunsTheSelectedMicroOperation : Obligations.DispatchRunsTheSelectedMicroOperation := by
  intro s
  refine ⟨fun i h => ?_, fun r h => ?_, fun _ _ => rfl⟩ <;> rcases decodeDispatch_cases s with ⟨i', e, run⟩ | ⟨e, same⟩ <;>
    cases e.symm.trans h
  · exact run
  · exact same

/-- Settles O51: the answer in range and out of it. -/
theorem readDigitalPinAnswersTheBit : Obligations.ReadDigitalPinAnswersTheBit := by
  intro s pin
  obtain ⟨-, -, index, -, -⟩ := pin_fields pin
  refine ⟨rfl, fun h => ?_, fun h => ?_⟩
  · rw [← index, ← pinValue_eq]
    exact congrArg (Outcome.next <| s.answer ·) (digitalPinAnswer_inRange h)
  · exact congrArg (Outcome.next <| s.answer ·) (digitalPinAnswer_outOfRange h)

/-- Settles O52: the answer in range and out of it. -/
theorem readAnalogChannelAnswersTheValue : Obligations.ReadAnalogChannelAnswersTheValue := by
  intro s channel
  have index : channelReg channel = BitVec.ofNat 4 channel.toNat := by
    apply BitVec.eq_of_toNat_eq
    simp [channelReg]
  refine ⟨rfl, fun h => ?_, fun h => ?_⟩
  · rw [← index]
    exact congrArg (Outcome.next <| s.answer ·) (analogChannelAnswer_inRange h)
  · exact congrArg (Outcome.next <| s.answer ·) (analogChannelAnswer_outOfRange h)

/-- Settles O53: the packed pair as a number. -/
theorem readVersionAnswersThePair : Obligations.ReadVersionAnswersThePair := by
  intro s idx
  rw [← append_eq_ofNat]
  exact ⟨rfl, rfl⟩

/-- Settles O54: a query appends its answer, and the answer given is not read again. -/
theorem queriesOnlyAnswer : Obligations.QueriesOnlyAnswer := by
  intro s q idx
  have again : queryAnswer (s.answer (queryAnswer s q idx)) q idx = queryAnswer s q idx :=
    queryAnswer_congr rfl ⟨rfl, rfl, rfl, rfl⟩ q idx
  refine ⟨⟨queryAnswer s q idx, ?_, ?_⟩, rfl⟩
  · rw [feed_cons_next (runInput_query s q idx), feed_nil, State.answer]
  · rw [feed_cons_next (runInput_query s q idx), feed_cons_next (runInput_query _ q idx), feed_nil, again]
    simp [State.answer]

end Sys2Proof.Machine
end

section
/-! PROOFS. The whole machine: the Decoder and the Encoder do not wait for each other (10_state.md section 5), an operation looped back
(41_encoder.md section 6), the clock edge (20_memory.md section 2), and the record of the outputs (10_state.md section 6). -/

namespace Sys2Proof.Machine

open Host (Outcome)

/-- What an operation taken as one step has put on TX. -/
theorem complete_sent (s : State) (r : EncoderResult) : (s.complete r).tx.drop s.tx.length = r.bytes := by
  rw [complete_tx, List.drop_left]

theorem feed_singleton (i : Input) (s : State) : feed [i] s = runInput i s := by
  rw [feed_cons]
  cases runInput i s <;> rfl

/-! ### The Encoder's half of the state (rules R28, R58) -/

/-- The state `s` with the Encoder's registers and its outputs as in `o`. -/
def State.withEncoder (s o : State) : State := { s with dout := o.dout, busy := o.busy, tx := o.tx, statuses := o.statuses }

theorem takeByte_withEncoder (s o : State) : (s.withEncoder o).takeByte = s.withEncoder o.takeByte := by
  have busy : (s.withEncoder o).busy = o.busy := rfl
  unfold State.takeByte
  rw [busy]
  rcases ho : o.busy with _ | ⟨bytes, st⟩
  · rfl
  · rcases bytes with _ | ⟨b, _ | ⟨c, rest⟩⟩ <;> rfl

theorem complete_withEncoder (s o : State) (r : EncoderResult) :
    (s.withEncoder o).complete r = s.withEncoder (o.complete r) := rfl

theorem encoderResult_withEncoder {s o : State} (cfg : s.cfg = o.cfg) (op : BitVec 2) (pin arg : Byte) :
    encoderResult (s.withEncoder o) op pin arg = encoderResult o op pin arg :=
  encoderResult_congr (s := o) (s' := s.withEncoder o) cfg rfl op pin arg

theorem acceptOperation_withEncoder {s o : State} (cfg : s.cfg = o.cfg) (op : BitVec 2) (pin arg : Byte) :
    (s.withEncoder o).acceptOperation op pin arg = s.withEncoder (o.acceptOperation op pin arg) := by
  unfold State.acceptOperation
  rw [encoderResult_withEncoder cfg]
  simp only [apply_ite s.withEncoder]
  rfl

/-- An input that always completes, as the update `f`, which reads and writes nothing but the Encoder's half. -/
def EncoderInput (e : Input) (f : State → State) : Prop :=
  (∀ s, runInput e s = .next (f s)) ∧ ∀ s o : State, s.cfg = o.cfg → f (s.withEncoder o) = s.withEncoder (f o)

theorem encoderInput_take : EncoderInput .take State.takeByte := ⟨fun _ => rfl, fun s o _ => takeByte_withEncoder s o⟩

theorem encoderInput_accept (op : BitVec 2) (pin arg : Byte) :
    EncoderInput (.accept op pin arg) (·.acceptOperation op pin arg) :=
  ⟨fun _ => rfl, fun _ _ cfg => acceptOperation_withEncoder cfg op pin arg⟩

/-- An operation offered as one step: turned away while one is in progress (rule R91). -/
def State.offered (s : State) (op : BitVec 2) (pin arg : Byte) : State :=
  if s.busy.isSome then s else s.complete (encoderResult s op pin arg)

theorem runInput_command (s : State) (op : BitVec 2) (pin arg : Byte) :
    runInput (.port (.command op pin arg)) s = .next (s.offered op pin arg) := by
  rw [runInput, runTransaction, exec_decodeCommand, State.offered, apply_ite Outcome.next]

theorem encoderInput_command (op : BitVec 2) (pin arg : Byte) :
    EncoderInput (.port (.command op pin arg)) (·.offered op pin arg) := by
  refine ⟨fun s => runInput_command s op pin arg, fun s o cfg => ?_⟩
  dsimp only
  rw [State.offered, encoderResult_withEncoder cfg, complete_withEncoder, State.offered]
  exact (apply_ite s.withEncoder _ _ _).symm

/-- The two halves: one step of each, in either order, comes to the same. -/
theorem feed_rx_encoderInput {e : Input} {f : State → State} (he : EncoderInput e f) (s : State) (b : Byte) :
    feed [.port (.rx b), e] s = feed [e, .port (.rx b)] s := by
  obtain ⟨run, half⟩ := he
  have fs : f s = s.withOthers (s.withEncoder (f s)) := half s s rfl
  have after : exec (decodeRx (f s).sysex (f s).rem b) (f s) =
      mapNext (·.withOthers (s.withEncoder (f s))) (exec (decodeRx s.sysex s.rem b) s) := by
    rw [fs]
    exact rx_withOthers s _ b
  rw [feed_cons_next (run s), feed_singleton]
  refine Eq.trans ?_ after.symm
  rw [feed_cons]
  cases hr : exec (decodeRx s.sysex s.rem b) s with
  | next t =>
    obtain ⟨⟨dout, busy⟩, ⟨tx, statuses⟩, answers, cfg, inputs⟩ := rx_frame hr
    have self : t = t.withEncoder s := by
      rw [State.withEncoder, ← dout, ← busy, ← tx, ← statuses]
    have same : t.withOthers (s.withEncoder (f s)) = t.withEncoder (f s) := by
      rw [State.withOthers, State.withEncoder, State.withEncoder, inputs, answers]
    have ft : f t = t.withEncoder (f s) := by
      rw [self]
      exact half t s cfg
    rw [show runInput (.port (.rx b)) s = .next t from hr]
    dsimp only
    rw [feed_singleton, run, ft, ← same]
    rfl
  | fault r => rw [show runInput (.port (.rx b)) s = .fault r from hr]; rfl
  | refused r => rw [show runInput (.port (.rx b)) s = .refused r from hr]; rfl

/-- A run followed by the received byte of an edge, if it carries one. -/
theorem feed_append_rx {first : List Input} {s t : State} (h : feed first s = .next t) (p : PinsIn) :
    feed (first ++ (if p.rxValid then [.port (.rx p.rxData)] else [])) s =
      if p.rxValid then exec (decodeRx t.sysex t.rem p.rxData) t else .next t := by
  rw [feed_append, h]
  split_ifs
  · exact feed_singleton _ t
  · rfl

/-! ### Loop-back (rules R98, R102) -/

/-- The `DIGITAL_MESSAGE` header that `digitalWrite` sends (rule R93), as the Decoder reads it. -/
theorem digitalWrite_header : ∀ pin : Byte, pin.toNat / 8 < 16 →
    ((0x90 : Byte) ||| (pin >>> 3)) &&& 0xF0 = 0x90 ∧ ((0x90 : Byte) ||| (pin >>> 3)).setWidth 4 = pinReg pin := by
  decide

/-- The `ANALOG_MESSAGE` header that `analogWrite` sends (rule R94), as the Decoder reads it. -/
theorem analogWrite_header : ∀ n : Nat, n < 16 → BitVec.ofNat 8 (0xE0 + n) &&& 0xF0 = 0xE0 ∧
    (BitVec.ofNat 8 (0xE0 + n)).setWidth 4 = BitVec.ofNat 4 n := by
  decide

/-- A data-class byte with nothing pending changes nothing (rule R120). -/
theorem feedRx_cons_stray {s : State} {b : Byte} (hx : s.sysex = false) (hr : s.rem = 0) (hb : b < 0x80) (bs : List Byte) :
    feedRx (b :: bs) s = feedRx bs s := by
  rw [feedRx_cons_next (rx_header_of hx (.inl hr)), takeHeader_ignored (ignoredByte_of_data hb)]

/-- A received `SET_PIN_MODE` frame with operands below 128 changes nothing in `IDLE` (rules R117, R156). -/
theorem feedRx_setPinMode {s : State} {pin mode : Byte} (hx : s.sysex = false) (hr : s.rem = 0) (hp : pin < 0x80)
    (hm : mode < 0x80) (bs : List Byte) : feedRx (0xF4 :: pin :: mode :: bs) s = feedRx bs s := by
  rw [feedRx_cons_ignored hx (by decide) (by unfold IgnoredByte; decide), feedRx_cons_stray hx hr hp,
    feedRx_cons_stray hx hr hm]

/-- The bit that a query reads after `digitalWrite` (rules R85, R93). -/
theorem pinValue_mirrored (s : State) (pin : Byte) (value : BitVec 1) :
    pinValue (s.mirrored pin value) pin = value.setWidth 14 := by
  rw [pinValue_eq, mirrored_getLsbD s pin value (Nat.mod_lt _ (by decide)), if_pos rfl]
  revert value
  decide

/-! ### The record of the outputs (rules R30, R136) -/

/-- The state `s` with what has left its ports standing after the record of `o`. -/
def State.recordedAfter (s o : State) : State :=
  { s with tx := o.tx ++ s.tx, statuses := o.statuses ++ s.statuses, answers := o.answers ++ s.answers }

theorem takeByte_recordedAfter (s o : State) : (s.recordedAfter o).takeByte = s.takeByte.recordedAfter o := by
  have busy : (s.recordedAfter o).busy = s.busy := rfl
  unfold State.takeByte
  rw [busy]
  rcases hs : s.busy with _ | ⟨bytes, st⟩
  · rfl
  · rcases bytes with _ | ⟨b, _ | ⟨c, rest⟩⟩ <;> simp [State.recordedAfter]

theorem complete_recordedAfter (s o : State) (r : EncoderResult) :
    (s.recordedAfter o).complete r = (s.complete r).recordedAfter o := by
  simp [State.recordedAfter, State.complete]

theorem encoderResult_recordedAfter (s o : State) (op : BitVec 2) (pin arg : Byte) :
    encoderResult (s.recordedAfter o) op pin arg = encoderResult s op pin arg := rfl

theorem acceptOperation_recordedAfter (s o : State) (op : BitVec 2) (pin arg : Byte) :
    (s.recordedAfter o).acceptOperation op pin arg = (s.acceptOperation op pin arg).recordedAfter o := by
  unfold State.acceptOperation
  simp only [encoderResult_recordedAfter, complete_recordedAfter, apply_ite (fun t : State => t.recordedAfter o)]
  rfl

theorem queryAnswer_recordedAfter (s o : State) (q : BitVec 2) (idx : Byte) :
    queryAnswer (s.recordedAfter o) q idx = queryAnswer s q idx := rfl

theorem answer_recordedAfter (s o : State) (a : Answer) : (s.recordedAfter o).answer a = (s.answer a).recordedAfter o := by
  simp [State.recordedAfter, State.answer]

theorem edgeTaken_recordedAfter (s o : State) (p : PinsIn) :
    (s.recordedAfter o).edgeTaken p = (s.edgeTaken p).recordedAfter o := by
  rw [State.edgeTaken, State.edgeTaken, takeByte_recordedAfter, apply_ite (fun t : State => t.recordedAfter o)]

theorem edgeEncoder_recordedAfter (s o : State) (p : PinsIn) :
    (s.recordedAfter o).edgeEncoder p = (s.edgeEncoder p).recordedAfter o := by
  rw [State.edgeEncoder, State.edgeEncoder, edgeTaken_recordedAfter, acceptOperation_recordedAfter,
    apply_ite (fun t : State => t.recordedAfter o)]
  rfl

theorem rx_recordedAfter (s o : State) (b : Byte) :
    exec (decodeRx (s.recordedAfter o).sysex (s.recordedAfter o).rem b) (s.recordedAfter o) =
      mapNext (·.recordedAfter o) (exec (decodeRx s.sysex s.rem b) s) := by
  refine (rx_withOthers s (s.recordedAfter o) b).trans ?_
  cases hr : exec (decodeRx s.sysex s.rem b) s with
  | next t =>
    have self : t = t.withOthers s := Outcome.next.inj (hr.symm.trans (rx_next_withOthers hr s))
    rw [self]
    rfl
  | fault r => rfl
  | refused r => rfl

theorem runTransaction_recordedAfter (tr : Transaction) (s o : State) :
    runTransaction tr (s.recordedAfter o) = mapNext (·.recordedAfter o) (runTransaction tr s) := by
  cases tr with
  | rx b => exact rx_recordedAfter s o b
  | command op pin arg =>
    rw [runTransaction, runTransaction, exec_decodeCommand, exec_decodeCommand, encoderResult_recordedAfter,
      complete_recordedAfter, mapNext_ite]
    rfl
  | query q idx =>
    rw [runTransaction, runTransaction, exec_decodeQuery, exec_decodeQuery, mapNext_next, queryAnswer_recordedAfter, answer_recordedAfter]

/-- The record is appended to and never read. -/
theorem runInput_recordedAfter (i : Input) (s o : State) :
    runInput i (s.recordedAfter o) = mapNext (·.recordedAfter o) (runInput i s) := by
  cases i with
  | port tr => exact runTransaction_recordedAfter tr s o
  | accept op pin arg => exact congrArg Outcome.next (acceptOperation_recordedAfter s o op pin arg)
  | take => exact congrArg Outcome.next (takeByte_recordedAfter s o)
  | reset lost => rfl
  | edge p =>
    rw [runInput, runInput, clockEdge_eq, clockEdge_eq, mapNext_ite, mapNext_ite, edgeEncoder_recordedAfter,
      rx_recordedAfter]
    rfl

theorem step_recordedAfter (s o : State) : step (s.recordedAfter o) = mapNext (·.recordedAfter o) (step s) := by
  cases hi : s.inputs with
  | nil => rw [step_nil hi, step_nil (show (s.recordedAfter o).inputs = [] from hi), mapNext_next]
  | cons i rest =>
    rw [step_cons hi, step_cons (show (s.recordedAfter o).inputs = i :: rest from hi)]
    exact runInput_recordedAfter i { s with inputs := rest } o

theorem mapNext_eq_next {f : State → State} {x : Outcome State Fault Refusal} {t : State} (h : mapNext f x = .next t) :
    ∃ t0, x = .next t0 ∧ f t0 = t := by
  cases x with
  | next t0 => exact ⟨t0, rfl, Outcome.next.inj h⟩
  | fault r => cases h
  | refused r => cases h

/-! ### The obligations -/

/-- Settles O56: each of the three inputs is an update of the Encoder's half. -/
theorem decoderAndEncoderStepsCommute : Obligations.DecoderAndEncoderStepsCommute := by
  rintro s b e (⟨op, pin, arg, rfl | rfl⟩ | rfl)
  · exact feed_rx_encoderInput (encoderInput_command op pin arg) s b
  · exact feed_rx_encoderInput (encoderInput_accept op pin arg) s b
  · exact feed_rx_encoderInput encoderInput_take s b

/-- Settles O57: the bytes sent are a digital frame whose value is the mirrored byte. -/
theorem digitalWriteRoundTrip : Obligations.DigitalWriteRoundTrip := by
  intro s pin value wf hx inRange
  obtain ⟨-, ports, -, -⟩ := (Config.wf_iff s.cfg).1 wf
  obtain ⟨reg, -⟩ := pin_fields_inRange wf inRange
  obtain ⟨nibble, chan⟩ := digitalWrite_header pin (by omega)
  obtain ⟨-, -, low, high⟩ := split_fields (s.mirrored pin value)
  obtain ⟨value8, -⟩ := assemble_split_byte (s.mirrored pin value)
  have result := digitalWriteResult_inRange inRange value
  obtain ⟨-, u, run, din, ain, vmaj, vmin, ⟨dout, -⟩, -, -, ⟨cfg, -⟩, idle, -⟩ :=
    feedRx_digitalFrame (s := s.complete (digitalWriteResult s pin value)) hx nibble low high
  have port : getReg u.din (pinReg pin) = s.mirrored pin value := by
    rw [din, chan, if_pos ⟨rfl, by rw [complete_cfg, reg]; exact inRange⟩, value8]
  refine ⟨_, u, rfl, ?_, idle, dout, ?_, ?_, fun k hk other => ?_, fun p other => ?_, ain, vmaj, vmin⟩
  · rw [complete_sent, congrArg EncoderResult.bytes result]
    exact run
  · rw [port, dout, complete_dout, result, getReg_setReg, if_pos rfl]
  · have answer : digitalPinAnswer u pin = returned (value.setWidth 14) := by
      rw [digitalPinAnswer_inRange (by rw [cfg]; exact inRange), port, pinValue_mirrored]
    exact congrArg (Outcome.next <| u.answer ·) answer
  · rw [port, mirrored_getLsbD s pin value hk, if_neg other]
  · rw [din, chan, if_neg fun e => other e.1, complete_din]

/-- Settles O58: the first frame is ignored in `IDLE`, and the second is an analog frame. -/
theorem analogWriteRoundTrip : Obligations.AnalogWriteRoundTrip := by
  intro s pin value isIdle hpin hmode
  obtain ⟨hx, hr⟩ := (isIdle_iff s).1 isIdle
  obtain ⟨nibble, chan⟩ := analogWrite_header (pin.toNat % 16) (Nat.mod_lt _ (by decide))
  obtain ⟨lowEq, highEq, low, high⟩ := split_fields value
  obtain ⟨-, value14⟩ := assemble_split_byte value
  rw [lowEq] at low value14
  rw [highEq] at high value14
  obtain ⟨-, u, run, ain, din, vmaj, vmin, ⟨dout, -⟩, -, -, -, idle, -⟩ :=
    feedRx_analogFrame (s := s.complete (encoderResult s 2 pin value)) hx nibble low high
  refine ⟨s.complete (encoderResult s 2 pin value), u, rfl, ?_, idle, fun c => ?_, din, vmaj, vmin, dout⟩
  · rw [complete_sent, congrArg EncoderResult.bytes (encoderResult_analogWrite s pin value)]
    exact (feedRx_setPinMode (s := s.complete (encoderResult s 2 pin value)) hx hr hpin hmode _).trans run
  · have index : c = BitVec.ofNat 4 (pin.toNat % 16) ↔ c.toNat = pin.toNat % 16 := by
      rw [← BitVec.toNat_inj, BitVec.toNat_ofNat, Nat.mod_eq_of_lt (a := pin.toNat % 16) (by omega)]
    rw [ain c, chan, apply_ite BitVec.toNat, value14]
    exact if_congr (and_congr_left' index) rfl rfl

/-- Settles O59: what an edge does is read off its signals. -/
theorem clockEdgeIsItsTransactions : Obligations.ClockEdgeIsItsTransactions := by
  intro s p
  refine ⟨fun rst => ?_, fun rst free => ?_, fun rst busy => ?_⟩
  · rw [feed_singleton, feed_singleton]
    exact if_pos rst
  · have none : s.takeByte = s := by rw [State.takeByte, free]
    have half : s.edgeEncoder p = if p.cmdValid then s.acceptOperation p.cmdOp p.cmdPin p.cmdArg else s := by
      simp [State.edgeEncoder, State.edgeTaken, none, free]
    rw [feed_singleton, runInput, clockEdge_eq, if_neg (by simp [rst]), feed_append_rx (t := s.edgeEncoder p)]
    rw [half]
    split_ifs <;> rfl
  · have half : s.edgeEncoder p = if p.txReady then s.takeByte else s := by
      simp [State.edgeEncoder, State.edgeTaken, busy]
    rw [feed_singleton, runInput, clockEdge_eq, if_neg (by simp [rst]), feed_append_rx (t := s.edgeEncoder p)]
    rw [half]
    split_ifs <;> rfl

/-- Settles O60: both runs are the run from the empty record, each put after its own. -/
theorem recordOfTheOutputsIsNeverRead : Obligations.RecordOfTheOutputsIsNeverRead := by
  intro s t tx st an h
  have split (o : State) : State.recordedAfter { s with tx := [], statuses := [], answers := [] } o =
      { s with tx := o.tx, statuses := o.statuses, answers := o.answers } := by
    simp [State.recordedAfter]
  have run (o : State) := step_recordedAfter { s with tx := [], statuses := [], answers := [] } o
  simp only [split] at run
  obtain ⟨t0, empty, rfl⟩ := mapNext_eq_next ((run s).symm.trans h)
  have other := run { s with tx := tx, statuses := st, answers := an }
  rw [empty] at other
  exact ⟨_, other, rfl, ⟨t0.tx, rfl, rfl⟩, ⟨t0.statuses, rfl, rfl⟩, ⟨t0.answers, rfl, rfl⟩⟩

end Sys2Proof.Machine
end

section
/-! PROOFS. Runs compared with other runs: the named states of rule R33 and the reduced machine of rule R128 follow the Decoder byte by
byte; states that agree on the observable part of the session stay so (rule R35); and a repeated run retraces the first (rule R125). -/

namespace Sys2Proof.Machine

open Host (Outcome)

/-! ### The named states (rules R33, R122) -/

theorem named_sysex {s : State} (hx : s.sysex = true) : s.named = .sysex s.sxcnt := by
  rw [State.named, if_pos hx]

theorem named_idle {s : State} (hx : s.sysex = false) (hr : s.rem = 0) : s.named = .idle := by
  rw [State.named, if_neg (by simp [hx]), if_pos hr]

theorem named_awaiting {s : State} (hx : s.sysex = false) (hr : s.rem ≠ 0) :
    s.named = .awaitingData s.cmd (if s.cmd = 0xF9 then none else some s.chan) s.rem := by
  rw [State.named, if_neg (by simp [hx]), if_neg hr]

/-- The rows for a command-class byte, as the Decoder tests them (rule R122). -/
theorem afterCommand_eq (old : Named) (b : Byte) :
    old.afterCommand b =
      if b &&& 0xF0 = 0x90 then .awaitingData 0x90 (some (channelField b)) 2
      else if b &&& 0xF0 = 0xE0 then .awaitingData 0xE0 (some (channelField b)) 2
      else if b = 0xF9 then .awaitingData 0xF9 none 2
      else if b = 0xF0 then .sysex 0
      else old := by
  obtain ⟨digital, analog, -, -⟩ := nibble_ranges b
  simp only [Named.afterCommand, digital, analog]

theorem afterCommand_data {b : Byte} (h : b < 0x80) (old : Named) : old.afterCommand b = old := by
  obtain ⟨h1, h2, h3, h4⟩ := ignoredByte_of_data h
  rw [afterCommand_eq, if_neg h1, if_neg h2, if_neg h3, if_neg h4]

/-- A header moves the named states by the rows for a command-class byte. -/
theorem named_takeHeader {s : State} (hx : s.sysex = false) (b : Byte) : (s.takeHeader b).named = s.named.afterCommand b := by
  rw [afterCommand_eq]
  unfold State.takeHeader
  split_ifs
  · exact named_awaiting hx (by simp)
  · exact named_awaiting hx (by simp)
  · exact named_awaiting hx (by simp)
  · exact named_sysex rfl
  · rfl

/-- A byte that is taken as a header, in the table (rules R105, R122). -/
theorem named_next_header {s : State} {b : Byte} (hx : s.sysex = false) (h : s.rem = 0 ∨ ¬ b < 0x80) :
    s.named.next b = s.named.afterCommand b := by
  have data := le_data_iff b
  by_cases hr : s.rem = 0
  · rw [named_idle hx hr, Named.next]
    split_ifs with hb
    · exact (afterCommand_data (data.1 hb) _).symm
    · rfl
  · rw [named_awaiting hx hr, Named.next, if_neg fun hb => h.resolve_left hr (data.1 hb)]

/-- A data byte moves `AWAITING_DATA` to its second byte or to `IDLE`. -/
theorem named_takeData {s : State} {b : Byte} (hx : s.sysex = false) (hr : s.rem = 1 ∨ s.rem = 2) (hb : b < 0x80) :
    (s.takeData b).named = s.named.next b := by
  have data := le_data_iff b
  rcases hr with hr | hr
  · rw [named_awaiting hx (by rw [hr]; decide), Named.next, if_pos (data.2 hb), hr, if_neg (by decide)]
    exact named_idle (by simp [hx]) (by rw [takeData_rem, hr]; rfl)
  · rw [named_awaiting hx (by rw [hr]; decide), Named.next, if_pos (data.2 hb), hr, if_pos rfl, takeData_first hr]
    exact named_awaiting hx (by simp)

/-! ### The reduced machine (rule R128) -/

/-! What the reduced machine keeps of the session (rule R128). -/

theorem mini_control_sx {s : State} (hx : s.sysex = true) : s.mini.control = .sx := if_pos hx

theorem mini_control_idle {s : State} (hx : s.sysex = false) (hr : s.rem = 0) : s.mini.control = .idle := by
  simp [State.mini, hx, hr]

theorem mini_control_wait1 {s : State} (hx : s.sysex = false) (hr : s.rem = 1) :
    s.mini.control = .wait1 s.wait (s.buf[0].setWidth 7) := by
  simp [State.mini, hx, hr]

theorem mini_control_wait2 {s : State} (hx : s.sysex = false) (hr : s.rem = 2) : s.mini.control = .wait2 s.wait := by
  simp [State.mini, hx, hr]

/-- The headers of the reduced machine, as the Decoder tests them. -/
theorem header_eq (m : Mini) (b : Byte) :
    m.header b =
      if b &&& 0xF0 = 0x90 then { m with control := .wait2 (.digital (channelField b)) }
      else if b &&& 0xF0 = 0xE0 then { m with control := .wait2 (.analog (channelField b)) }
      else if b = 0xF9 then { m with control := .wait2 .version }
      else if b = 0xF0 then { m with control := .sx }
      else m := by
  obtain ⟨digital, analog, -, -⟩ := nibble_ranges b
  simp only [Mini.header, digital, analog]

theorem mini_takeHeader {s : State} (hx : s.sysex = false) (b : Byte) : (s.takeHeader b).mini = s.mini.header b := by
  rw [header_eq]
  unfold State.takeHeader
  split_ifs <;> simp [State.mini, State.wait, channelField, hx]

/-- Two data bytes side by side are the assembled value (rules R50, R71). -/
theorem append_eq_assemble {first second : Byte} (h1 : first < 0x80) (h2 : second < 0x80) :
    (second.setWidth 7 : Data7) ++ (first.setWidth 7 : Data7) = assemble first second := by
  rw [append_eq_ofNat, assemble_eq_ofNat, toNat_setWidth_of_data h1, toNat_setWidth_of_data h2]
  exact congrArg (BitVec.ofNat 14) (Nat.add_comm _ _)

/-- The second data byte writes the store of the reduced machine as it writes the Decoder's. -/
theorem mini_takeData_second {s : State} {b : Byte} (inv : s.Inv) (hx : s.sysex = false) (hr : s.rem = 1) (hb : b < 0x80) :
    (s.takeData b).mini = { s.mini.write s.wait (s.buf[0].setWidth 7) (b.setWidth 7) with control := .idle } := by
  obtain ⟨-, ⟨-, cmd, remCmd, -, -, first⟩, -, -⟩ := inv
  have value := append_eq_assemble (first hr) hb
  rw [takeData_second hr]
  rcases cmd with hc | hc | hc | hc
  · rw [remCmd.2 hc] at hr
    cases hr
  · by_cases hn : s.chan.toNat < s.cfg.nPorts <;>
      simp [State.dispatch, State.putDigitalPort, Mini.write, State.mini, State.wait, hc, hx, value, hn]
  · by_cases hn : s.chan.toNat < s.cfg.kChannels <;>
      simp [State.dispatch, State.putAnalogChannel, Mini.write, State.mini, State.wait, hc, hx, value, hn]
  · simp [State.dispatch, State.wait, Mini.write, State.mini, hc, hx]

theorem step_of_sx {m : Mini} (h : m.control = .sx) (b : Byte) :
    m.step b = if b = 0xF7 then { m with control := .idle } else m := by rw [Mini.step, h]

theorem step_of_idle {m : Mini} (h : m.control = .idle) (b : Byte) : m.step b = m.header b := by rw [Mini.step, h]

theorem step_of_wait2 {m : Mini} {w : Wait} (h : m.control = .wait2 w) (b : Byte) :
    m.step b = if b ≤ 0x7F then { m with control := .wait1 w (b.setWidth 7) } else m.header b := by rw [Mini.step, h]

theorem step_of_wait1 {m : Mini} {w : Wait} {first : Data7} (h : m.control = .wait1 w first) (b : Byte) :
    m.step b = if b ≤ 0x7F then { m.write w first (b.setWidth 7) with control := .idle } else m.header b := by
  rw [Mini.step, h]

/-- A byte that is taken as a header, in the reduced machine. -/
theorem mini_step_header {s : State} {b : Byte} (rem3 : s.rem ≠ 3) (hx : s.sysex = false) (h : s.rem = 0 ∨ ¬ b < 0x80) :
    s.mini.step b = s.mini.header b := by
  have data := le_data_iff b
  by_cases h0 : s.rem = 0
  · exact step_of_idle (mini_control_idle hx h0) b
  · have notData : ¬ b ≤ 0x7F := fun hb => h.resolve_left h0 (data.1 hb)
    rcases rem_cases s.rem h0 rem3 with hr | hr
    · rw [step_of_wait1 (mini_control_wait1 hx hr), if_neg notData]
    · rw [step_of_wait2 (mini_control_wait2 hx hr), if_neg notData]

theorem mini_takeData {s : State} {b : Byte} (inv : s.Inv) (hx : s.sysex = false) (hr : s.rem = 1 ∨ s.rem = 2)
    (hb : b < 0x80) : (s.takeData b).mini = s.mini.step b := by
  have data : b ≤ 0x7F := (le_data_iff b).2 hb
  rcases hr with hr | hr
  · rw [mini_takeData_second inv hx hr hb, step_of_wait1 (mini_control_wait1 hx hr), if_pos data]
  · rw [step_of_wait2 (mini_control_wait2 hx hr), if_pos data, takeData_first hr]
    simp [State.mini, State.wait, hx]

/-- One byte, in both machines. -/
theorem mini_rx {s t : State} {b : Byte} (inv : s.Inv) (h : exec (decodeRx s.sysex s.rem b) s = .next t) :
    t.mini = s.mini.step b := by
  have rem3 : s.rem ≠ 3 := rem_ne_three_of_inv inv
  rcases rx_next_cases h with ⟨hx, rfl, rfl⟩ | ⟨hx, hb, -, rfl⟩ | ⟨hx, hb, -, rfl⟩ | ⟨hx, hr, hb, rfl⟩ | ⟨hx, hh, rfl⟩
  · rw [step_of_sx (mini_control_sx hx), if_pos rfl]
    simp [State.mini]
  · rw [step_of_sx (mini_control_sx hx), if_neg hb]
    simp [State.mini, hx]
  · rw [step_of_sx (mini_control_sx hx), if_neg hb]
  · exact mini_takeData inv hx (rem_cases s.rem hr rem3) hb
  · rw [mini_takeHeader hx, mini_step_header rem3 hx hh]

/-- A run of received bytes, cut after the first. -/
theorem feedRx_cons_eq_next {b : Byte} {bs : List Byte} {s t : State} (h : feedRx (b :: bs) s = .next t) :
    ∃ u, exec (decodeRx s.sysex s.rem b) s = .next u ∧ feedRx bs u = .next t := by
  rw [feedRx_cons] at h
  cases e : exec (decodeRx s.sysex s.rem b) s with
  | next u =>
    rw [e] at h
    exact ⟨u, rfl, h⟩
  | fault r =>
    rw [e] at h
    cases h
  | refused r =>
    rw [e] at h
    cases h

theorem rx_truncates {s t : State} {b : Byte} (h : exec (decodeRx s.sysex s.rem b) s = .next t) (trunc : s.Truncates) :
    t.Truncates := by
  have cfg : t.cfg = s.cfg := update_cfg (.rx b h)
  rw [State.Truncates, cfg]
  exact trunc

/-! ### Agreeing states (rule R35) -/

/-- The part of the session that can be observed (rule R35). -/
def AgreeSession (s t : State) : Prop :=
  t.sysex = s.sysex ∧ t.rem = s.rem ∧ t.cmd = s.cmd ∧ ((s.cmd = 0x90 ∨ s.cmd = 0xE0) → t.chan = s.chan) ∧
  (s.rem = 1 → t.buf[0] = s.buf[0])

theorem agree_iff (s t : State) :
    Agree s t ↔ t.cfg = s.cfg ∧ SameEncoder s t ∧ SameObservable s t ∧ AgreeSession s t := Iff.rfl

/-- Decoder steps of agreeing states need only agree on the store and the session afterwards. -/
theorem agree_of_rx {s s' t t' : State} {b : Byte} (a : Agree s s') (e : exec (decodeRx s.sysex s.rem b) s = .next t)
    (e' : exec (decodeRx s'.sysex s'.rem b) s' = .next t') (store : SameStore t t') (session : AgreeSession t t') :
    Agree t t' := by
  obtain ⟨cfg, ⟨dout, busy⟩, ⟨-, ⟨tx, statuses⟩, answers⟩, -⟩ := (agree_iff s s').1 a
  obtain ⟨⟨dout1, busy1⟩, ⟨tx1, statuses1⟩, answers1, ⟨cfg1, -⟩⟩ := rx_frame e
  obtain ⟨⟨dout2, busy2⟩, ⟨tx2, statuses2⟩, answers2, ⟨cfg2, -⟩⟩ := rx_frame e'
  exact (agree_iff t t').2 ⟨(cfg2.trans cfg).trans cfg1.symm,
    ⟨(dout2.trans dout).trans dout1.symm, (busy2.trans busy).trans busy1.symm⟩,
    ⟨store, ⟨(tx2.trans tx).trans tx1.symm, (statuses2.trans statuses).trans statuses1.symm⟩,
      (answers2.trans answers).trans answers1.symm⟩, session⟩

/-- Headers of agreeing states leave them agreeing. -/
theorem agreeSession_takeHeader {s s' : State} (h : AgreeSession s s') (b : Byte) :
    AgreeSession (s.takeHeader b) (s'.takeHeader b) := by
  obtain ⟨sysex, rem, cmd, chan, first⟩ := h
  unfold State.takeHeader
  split_ifs
  · exact ⟨sysex, rfl, rfl, fun _ => rfl, by simp⟩
  · exact ⟨sysex, rfl, rfl, fun _ => rfl, by simp⟩
  · exact ⟨sysex, rfl, rfl, by simp, by simp⟩
  · exact ⟨rfl, rfl, rfl, by simp, by simp⟩
  · exact ⟨sysex, rem, cmd, chan, first⟩

/-- A second data byte writes the same register with the same value in agreeing states. -/
theorem takeData_second_congr {s s' : State} (cfg : s'.cfg = s.cfg) (store : SameStore s s') (session : AgreeSession s s')
    (hr : s.rem = 1) (b : Byte) : SameStore (s.takeData b) (s'.takeData b) := by
  obtain ⟨din, ain, vmaj, vmin⟩ := store
  obtain ⟨-, rem, cmd, chan, first⟩ := session
  obtain ⟨din1, ain1, vmaj1, vmin1, -⟩ := takeData_second_store hr b
  obtain ⟨din2, ain2, vmaj2, vmin2, -⟩ := takeData_second_store (rem.trans hr) b
  rw [first hr, cfg, cmd] at *
  refine ⟨regs_ext fun p => ?_, regs_ext fun c => ?_, ?_, ?_⟩
  · rw [din1, din2, din]
    by_cases hc : s.cmd = 0x90
    · rw [chan (.inl hc)]
    · rw [if_neg fun e => hc e.1, if_neg fun e => hc e.1]
  · rw [ain1, ain2, ain]
    by_cases hc : s.cmd = 0xE0
    · rw [chan (.inr hc)]
    · rw [if_neg fun e => hc e.1, if_neg fun e => hc e.1]
  · rw [vmaj1, vmaj2, vmaj]
  · rw [vmin1, vmin2, vmin]

/-- A data byte of a pending command leaves agreeing states agreeing. -/
theorem takeData_congr {s s' : State} (cfg : s'.cfg = s.cfg) (store : SameStore s s') (session : AgreeSession s s')
    (hr : s.rem = 1 ∨ s.rem = 2) (b : Byte) :
    SameStore (s.takeData b) (s'.takeData b) ∧ AgreeSession (s.takeData b) (s'.takeData b) := by
  have ⟨sysex, rem, cmd, chan, _⟩ := session
  rcases hr with hr | hr
  · obtain ⟨-, -, -, -, cmd1⟩ := takeData_second_store hr b
    obtain ⟨-, -, -, -, cmd2⟩ := takeData_second_store (rem.trans hr) b
    refine ⟨takeData_second_congr cfg store session hr b, ?_, ?_, cmd2.trans cmd1.symm, ?_, ?_⟩
    · rw [takeData_sysex, takeData_sysex, sysex]
    · rw [takeData_rem, takeData_rem, rem]
    · rw [cmd1]
      simp
    · rw [takeData_rem, hr]
      simp
  · rw [takeData_first hr, takeData_first (rem.trans hr)]
    exact ⟨store, sysex, rfl, cmd, chan, by simp⟩

theorem sameStore_of_both {s s' t t' : State} (store : SameStore s s') (h : SameStore s t) (h' : SameStore s' t') :
    SameStore t t' := by
  obtain ⟨din, ain, vmaj, vmin⟩ := store
  obtain ⟨din1, ain1, vmaj1, vmin1⟩ := h
  obtain ⟨din2, ain2, vmaj2, vmin2⟩ := h'
  exact ⟨(din2.trans din).trans din1.symm, (ain2.trans ain).trans ain1.symm, (vmaj2.trans vmaj).trans vmaj1.symm,
    (vmin2.trans vmin).trans vmin1.symm⟩

/-- Agreeing states take a payload byte alike: where each stores it cannot be told. -/
theorem agree_payload {s s' : State} (inv : s.Inv) (trunc : s.Truncates) (a : Agree s s') {b : Byte} (hx : s.sysex = true)
    (hb : b ≠ 0xF7) :
    ∃ t t', exec (decodeRx s.sysex s.rem b) s = .next t ∧ exec (decodeRx s'.sysex s'.rem b) s' = .next t' ∧ Agree t t' := by
  obtain ⟨cfg, -, ⟨store, -⟩, sysex, rem, cmd, -⟩ := (agree_iff s s').1 a
  obtain ⟨-, ⟨-, -, -, inSysex, -⟩, -⟩ := inv
  obtain ⟨rem0, cmd0⟩ := inSysex hx
  have trunc' : s'.Truncates := by rw [State.Truncates, cfg]; exact trunc
  obtain ⟨t, run1, store1, -, -, -, -, cmd1, rem1, -, sysex1⟩ := execSysexPayload_frame trunc b
  obtain ⟨t', run2, store2, -, -, -, -, cmd2, rem2, -, sysex2⟩ := execSysexPayload_frame trunc' b
  have e := (rx_payload hx hb).trans run1
  have e' := (rx_payload (sysex.trans hx) hb).trans run2
  refine ⟨t, t', e, e', agree_of_rx a e e' (sameStore_of_both store store1 store2)
    ⟨(sysex2.trans sysex).trans sysex1.symm, (rem2.trans rem).trans rem1.symm, (cmd2.trans cmd).trans cmd1.symm, ?_, ?_⟩⟩
  · rw [cmd1, cmd0]
    simp
  · rw [rem1, rem0]
    simp

/-- Agreeing states take a received byte alike. -/
theorem agree_rx {s s' : State} (inv : s.Inv) (trunc : s.Truncates) (a : Agree s s') (b : Byte) :
    ∃ t t', exec (decodeRx s.sysex s.rem b) s = .next t ∧ exec (decodeRx s'.sysex s'.rem b) s' = .next t' ∧ Agree t t' := by
  obtain ⟨cfg, -, ⟨store, -⟩, session⟩ := (agree_iff s s').1 a
  have ⟨sysex, rem, _⟩ := session
  have rem3 : s.rem ≠ 3 := rem_ne_three_of_inv inv
  by_cases hx : s.sysex = true
  · by_cases hb : b = 0xF7
    · subst hb
      have e := rx_endSysex hx
      have e' := rx_endSysex (sysex.trans hx)
      exact ⟨_, _, e, e', agree_of_rx a e e' store ⟨rfl, rfl, rfl, by simp, by simp⟩⟩
    · exact agree_payload inv trunc a hx hb
  · replace hx : s.sysex = false := by simpa using hx
    by_cases hd : s.rem ≠ 0 ∧ b < 0x80
    · obtain ⟨store', session'⟩ := takeData_congr cfg store session (rem_cases s.rem hd.1 rem3) b
      have e := rx_data hx hd.1 hd.2
      have e' := rx_data (sysex.trans hx) (rem ▸ hd.1) hd.2
      exact ⟨_, _, e, e', agree_of_rx a e e' store' session'⟩
    · have header : s.rem = 0 ∨ ¬ b < 0x80 := by
        by_cases h0 : s.rem = 0
        · exact .inl h0
        · exact .inr fun hb => hd ⟨h0, hb⟩
      have e := rx_header_of hx header
      have e' := rx_header_of (sysex.trans hx) (rem ▸ header)
      exact ⟨_, _, e, e', agree_of_rx a e e'
        (sameStore_of_both store (takeHeader_frame s b).1 (takeHeader_frame s' b).1) (agreeSession_takeHeader session b)⟩

/-! The Encoder's updates and the others: an agreeing state's is the same one. -/

/-- Of a state that agrees with `s`, the Encoder's half is that of `s`. -/
theorem agree_withEncoder_self {s s' : State} (a : Agree s s') : s' = s'.withEncoder s := by
  obtain ⟨-, ⟨dout, busy⟩, ⟨-, ⟨tx, statuses⟩, -⟩, -⟩ := (agree_iff s s').1 a
  rw [State.withEncoder, ← dout, ← busy, ← tx, ← statuses]

/-- What an update of the Encoder's half keeps (rules R28, R96). -/
def EncoderFrame (s t : State) : Prop := t.cfg = s.cfg ∧ SameStore s t ∧ SameAnswers s t ∧ SameSession s t

theorem agree_withEncoder {s s' t : State} (a : Agree s s') (h : EncoderFrame s t) : Agree t (s'.withEncoder t) := by
  obtain ⟨cfg, -, ⟨⟨din, ain, vmaj, vmin⟩, -, answers⟩, sysex, rem, cmd, chan, first⟩ := (agree_iff s s').1 a
  obtain ⟨cfg1, ⟨din1, ain1, vmaj1, vmin1⟩, answers1, cmd1, chan1, rem1, buf1, sysex1, -⟩ := h
  have chan2 : t.cmd = 0x90 ∨ t.cmd = 0xE0 → (s'.withEncoder t).chan = t.chan := by
    rw [cmd1, chan1]
    exact chan
  have first2 : t.rem = 1 → (s'.withEncoder t).buf[0] = t.buf[0] := by
    rw [rem1, buf1]
    exact first
  exact ⟨cfg.trans cfg1.symm, ⟨rfl, rfl⟩,
    ⟨⟨din.trans din1.symm, ain.trans ain1.symm, vmaj.trans vmaj1.symm, vmin.trans vmin1.symm⟩, ⟨rfl, rfl⟩,
      answers.trans answers1.symm⟩,
    sysex.trans sysex1.symm, rem.trans rem1.symm, cmd.trans cmd1.symm, chan2, first2⟩

/-- Agreeing states have agreeing updates of the Encoder's half. -/
theorem agree_encoderInput {e : Input} {f : State → State} (he : EncoderInput e f) (frame : ∀ s, EncoderFrame s (f s))
    {s s' : State} (a : Agree s s') : Agree (f s) (f s') := by
  obtain ⟨cfg, -⟩ := (agree_iff s s').1 a
  have half : f s' = s'.withEncoder (f s) := by
    rw [agree_withEncoder_self a]
    exact he.2 s' s cfg
  rw [half]
  exact agree_withEncoder a (frame s)

theorem takeByte_frame (s : State) : EncoderFrame s s.takeByte := by
  simp [EncoderFrame, SameStore, SameAnswers, SameSession]

theorem acceptOperation_frame (op : BitVec 2) (pin arg : Byte) (s : State) :
    EncoderFrame s (s.acceptOperation op pin arg) := by
  simp [EncoderFrame, SameStore, SameAnswers, SameSession]

theorem offered_frame (op : BitVec 2) (pin arg : Byte) (s : State) : EncoderFrame s (s.offered op pin arg) := by
  unfold State.offered
  split_ifs <;> simp [EncoderFrame, SameStore, SameAnswers, SameSession]

theorem agree_takeByte {s s' : State} (a : Agree s s') : Agree s.takeByte s'.takeByte :=
  agree_encoderInput encoderInput_take takeByte_frame a

theorem agree_acceptOperation {s s' : State} (a : Agree s s') (op : BitVec 2) (pin arg : Byte) :
    Agree (s.acceptOperation op pin arg) (s'.acceptOperation op pin arg) :=
  agree_encoderInput (encoderInput_accept op pin arg) (acceptOperation_frame op pin arg) a

theorem agree_edgeTaken {s s' : State} (a : Agree s s') (p : PinsIn) : Agree (s.edgeTaken p) (s'.edgeTaken p) := by
  unfold State.edgeTaken
  split_ifs
  · exact agree_takeByte a
  · exact a

theorem agree_edgeEncoder {s s' : State} (a : Agree s s') (p : PinsIn) : Agree (s.edgeEncoder p) (s'.edgeEncoder p) := by
  obtain ⟨-, ⟨-, busy⟩, -⟩ := (agree_iff s s').1 a
  rw [State.edgeEncoder, State.edgeEncoder, busy]
  split_ifs
  · exact agree_acceptOperation (agree_edgeTaken a p) _ _ _
  · exact agree_edgeTaken a p

theorem agree_applyReset {s s' : State} (a : Agree s s') : Agree s.applyReset s'.applyReset := by
  obtain ⟨cfg, -, ⟨-, ⟨tx, statuses⟩, answers⟩, -⟩ := (agree_iff s s').1 a
  exact ⟨cfg, ⟨rfl, rfl⟩, ⟨⟨rfl, rfl, rfl, rfl⟩, ⟨tx, statuses⟩, answers⟩, rfl, rfl, rfl, fun _ => rfl, fun _ => rfl⟩

theorem agree_answer {s s' : State} (a : Agree s s') (q : BitVec 2) (idx : Byte) :
    Agree (s.answer (queryAnswer s q idx)) (s'.answer (queryAnswer s' q idx)) := by
  obtain ⟨cfg, encoder, ⟨store, sent, answers⟩, session⟩ := (agree_iff s s').1 a
  have both : s'.answers ++ [queryAnswer s' q idx] = s.answers ++ [queryAnswer s q idx] := by
    rw [answers, queryAnswer_congr cfg store]
  exact (agree_iff _ _).2 ⟨cfg, encoder, ⟨store, sent, both⟩, session⟩

/-- Agreeing states take one input alike. -/
theorem agree_runInput {s s' : State} (inv : s.Inv) (trunc : s.Truncates) (a : Agree s s') (i : Input) :
    ∃ t t', runInput i s = .next t ∧ runInput i s' = .next t' ∧ Agree t t' := by
  cases i with
  | port tr =>
    cases tr with
    | rx b => exact agree_rx inv trunc a b
    | command op pin arg =>
      exact ⟨_, _, runInput_command s op pin arg, runInput_command s' op pin arg,
        agree_encoderInput (encoderInput_command op pin arg) (offered_frame op pin arg) a⟩
    | query q idx => exact ⟨_, _, runInput_query s q idx, runInput_query s' q idx, agree_answer a q idx⟩
  | accept op pin arg => exact ⟨_, _, rfl, rfl, agree_acceptOperation a op pin arg⟩
  | take => exact ⟨_, _, rfl, rfl, agree_takeByte a⟩
  | reset lost => exact ⟨_, _, rfl, rfl, agree_applyReset a⟩
  | edge p =>
    have encoder := edgeEncoder_updates s p
    have trunc1 : (s.edgeEncoder p).Truncates := by
      rw [State.Truncates, updates_cfg encoder]
      exact trunc
    rw [runInput, runInput, clockEdge_eq, clockEdge_eq]
    split_ifs
    · exact ⟨_, _, rfl, rfl, agree_applyReset a⟩
    · exact agree_rx (updates_inv encoder inv) trunc1 (agree_edgeEncoder a p) p.rxData
    · exact ⟨_, _, rfl, rfl, agree_edgeEncoder a p⟩

/-! ### A run from `IDLE` to `IDLE`, repeated (rule R125) -/

/-- A cell of a repeated run holds what it held at the same place of the first run, or still what it held at the end of it. -/
def Retraced {α : Type} (last first again : α) : Prop := again = first ∨ again = last

/-- The state `r` of a repeated run, at the place where the first run, which ended in `e`, had the state `s`: the session goes the same
way, and each cell is retraced. -/
structure Retraces (e s r : State) : Prop where
  cfg : r.cfg = s.cfg
  sysex : r.sysex = s.sysex
  rem : r.rem = s.rem
  rem_ne : s.rem ≠ 3
  pending : s.rem ≠ 0 → r.cmd = s.cmd ∧ ((s.cmd = 0x90 ∨ s.cmd = 0xE0) → r.chan = s.chan)
  first : s.rem = 1 → r.buf[0] = s.buf[0]
  inSysex : s.sysex = true → s.rem = 0 ∧ r.sxcnt = s.sxcnt
  din : ∀ p, Retraced (getReg e.din p) (getReg s.din p) (getReg r.din p)
  ain : ∀ c, Retraced (getReg e.ain c) (getReg s.ain c) (getReg r.ain c)
  vmaj : Retraced e.vmaj s.vmaj r.vmaj
  vmin : Retraced e.vmin s.vmin r.vmin
  buf : ∀ (i : Nat) (h : i < 32), Retraced e.buf[i] s.buf[i] r.buf[i]
  sxcnt : Retraced e.sxcnt s.sxcnt r.sxcnt

/-- The same write in both runs, or none in either. -/
theorem retraced_ite {α : Type} {e x y : α} {c : Prop} [Decidable c] (h : Retraced e x y) (v : α) :
    Retraced e (if c then v else x) (if c then v else y) := by
  split_ifs
  · exact .inl rfl
  · exact h

theorem retraced_set {e s r : Vector Byte 32} (h : ∀ (i : Nat) (hi : i < 32), Retraced e[i] s[i] r[i]) (k : Nat) (b : Byte)
    (i : Nat) (hi : i < 32) : Retraced e[i] (s.setIfInBounds k b)[i] (r.setIfInBounds k b)[i] := by
  rw [Vector.getElem_setIfInBounds, Vector.getElem_setIfInBounds]
  exact retraced_ite (h i hi) b

theorem retraces_start {s e : State} (hs : s.isIdle = true) (he : e.isIdle = true) (cfg : e.cfg = s.cfg) : Retraces e s e := by
  obtain ⟨hx, hr⟩ := (isIdle_iff s).1 hs
  obtain ⟨hx', hr'⟩ := (isIdle_iff e).1 he
  exact ⟨cfg, hx'.trans hx.symm, hr'.trans hr.symm, by simp [hr], fun h => absurd hr h, by simp [hr], by simp [hx],
    fun _ => .inr rfl, fun _ => .inr rfl, .inr rfl, .inr rfl, fun _ _ => .inr rfl, .inr rfl⟩

theorem retraces_end {e r : State} (h : Retraces e e r) :
    SameStore e r ∧ r.buf = e.buf ∧ r.sxcnt = e.sxcnt := by
  have same {α : Type} {x y : α} (h : Retraced x x y) : y = x := h.elim id id
  exact ⟨⟨regs_ext fun p => same (h.din p), regs_ext fun c => same (h.ain c), same h.vmaj, same h.vmin⟩,
    Vector.ext fun i hi => same (h.buf i hi), same h.sxcnt⟩

theorem retraces_toIdle {e s r : State} (h : Retraces e s r) : Retraces e s.toIdle r.toIdle :=
  { h with sysex := rfl, rem := rfl, rem_ne := by simp, pending := by simp, first := by simp, inSysex := by simp }

theorem retraces_storePayload {e s r : State} (h : Retraces e s r) (hx : s.sysex = true) (b : Byte) :
    Retraces e (s.storePayload b) (r.storePayload b) := by
  obtain ⟨rem0, count⟩ := h.inSysex hx
  have same : (r.storePayload b).sxcnt = (s.storePayload b).sxcnt := by simp [count]
  refine { h with first := by simp [rem0], inSysex := fun _ => ⟨rem0, same⟩, buf := ?_, sxcnt := .inl same }
  rw [storePayload_buf, storePayload_buf, count]
  exact retraced_set h.buf _ b

/-- A header of a multi-byte command replaces the same session in both runs; only a channel that it uses has to agree. -/
theorem retraces_await {e s r : State} (h : Retraces e s r) (hx : s.sysex = false) (c : Byte) {ch ch' : Index4}
    (hc : (c = 0x90 ∨ c = 0xE0) → ch' = ch) : Retraces e (s.awaitChannelData c ch) (r.awaitChannelData c ch') :=
  { h with rem := rfl, rem_ne := by simp, pending := fun _ => ⟨rfl, hc⟩, first := by simp, inSysex := by simp [hx] }

theorem retraces_enterSysex {e s r : State} (h : Retraces e s r) : Retraces e s.enterSysex r.enterSysex :=
  { h with sysex := rfl, rem := rfl, rem_ne := by simp, pending := by simp, first := by simp, inSysex := by simp,
           sxcnt := .inl rfl }

theorem retraces_takeHeader {e s r : State} (h : Retraces e s r) (hx : s.sysex = false) (b : Byte) :
    Retraces e (s.takeHeader b) (r.takeHeader b) := by
  unfold State.takeHeader
  split_ifs
  · exact retraces_await h hx 0x90 fun _ => rfl
  · exact retraces_await h hx 0xE0 fun _ => rfl
  · exact retraces_await h hx 0xF9 (ch := s.chan) (ch' := r.chan) fun hc => absurd hc (by decide)
  · exact retraces_enterSysex h
  · exact h

/-- The second data byte: both runs write the same register with the same value. -/
theorem retraces_takeData_second {e s r : State} (h : Retraces e s r) (hx : s.sysex = false) (hr : s.rem = 1)
    (pending : r.cmd = s.cmd ∧ ((s.cmd = 0x90 ∨ s.cmd = 0xE0) → r.chan = s.chan)) (b : Byte) :
    Retraces e (s.takeData b) (r.takeData b) := by
  obtain ⟨cmd, chan⟩ := pending
  obtain ⟨din1, ain1, vmaj1, vmin1, -⟩ := takeData_second_store hr b
  obtain ⟨din2, ain2, vmaj2, vmin2, -⟩ := takeData_second_store (h.rem.trans hr) b
  rw [h.first hr, h.cfg, cmd] at din2 ain2
  rw [h.first hr, cmd] at vmin2
  rw [cmd] at vmaj2
  have rem0 : (s.takeData b).rem = 0 := by rw [takeData_rem, hr]; rfl
  have sameRem : (r.takeData b).rem = (s.takeData b).rem := by rw [takeData_rem, takeData_rem, h.rem]
  refine {
    cfg := by simp [h.cfg]
    sysex := by simp [h.sysex]
    rem := sameRem
    rem_ne := by rw [rem0]; decide
    pending := fun ne => absurd rem0 ne
    first := by rw [rem0]; exact fun e => absurd e (by decide)
    inSysex := by simp [hx]
    din := fun p => ?_
    ain := fun c => ?_
    vmaj := ?_
    vmin := ?_
    buf := ?_
    sxcnt := by simpa using h.sxcnt }
  · rw [din1, din2]
    by_cases hc : s.cmd = 0x90
    · rw [chan (.inl hc)]
      exact retraced_ite (h.din p) _
    · rw [if_neg fun e => hc e.1, if_neg fun e => hc e.1]
      exact h.din p
  · rw [ain1, ain2]
    by_cases hc : s.cmd = 0xE0
    · rw [chan (.inr hc)]
      exact retraced_ite (h.ain c) _
    · rw [if_neg fun e => hc e.1, if_neg fun e => hc e.1]
      exact h.ain c
  · rw [vmaj1, vmaj2]
    exact retraced_ite h.vmaj _
  · rw [vmin1, vmin2]
    exact retraced_ite h.vmin _
  · rw [takeData_buf, takeData_buf, h.rem]
    exact retraced_set h.buf _ b

theorem retraces_takeData {e s r : State} (h : Retraces e s r) (hx : s.sysex = false) (hr : s.rem ≠ 0) (b : Byte) :
    Retraces e (s.takeData b) (r.takeData b) := by
  obtain ⟨cmd, chan⟩ := h.pending hr
  rcases rem_cases s.rem hr h.rem_ne with hr | hr
  · exact retraces_takeData_second h hx hr ⟨cmd, chan⟩ b
  · rw [takeData_first hr, takeData_first (h.rem.trans hr)]
    refine { h with rem := rfl, rem_ne := by simp, pending := fun _ => ⟨cmd, chan⟩, first := by simp, inSysex := by simp [hx],
                    buf := ?_ }
    simpa [setIfInBounds_eq_set] using retraced_set h.buf 0 b

/-- A payload byte beyond the buffer is dropped only where overflow truncates. -/
theorem truncates_of_dropped {s t : State} {b : Byte} (hn : 32 ≤ s.sxcnt.toNat) (run : execSysexPayload b s = .next t) :
    s.Truncates := by
  rcases execSysexPayload_cases b s with ⟨h, -⟩ | ⟨-, trunc, -⟩ | ⟨-, -, e⟩
  · omega
  · exact trunc
  · cases e.symm.trans run

/-- One byte of the repeated run: it completes where the first run's did. -/
theorem retraces_rx {e s r t : State} {b : Byte} (h : Retraces e s r) (run : exec (decodeRx s.sysex s.rem b) s = .next t) :
    ∃ u, exec (decodeRx r.sysex r.rem b) r = .next u ∧ Retraces e t u := by
  rcases rx_next_cases run with ⟨hx, rfl, rfl⟩ | ⟨hx, hb, hn, rfl⟩ | ⟨hx, hb, hn, rfl⟩ | ⟨hx, hr, hb, rfl⟩ | ⟨hx, hh, rfl⟩
  · exact ⟨_, rx_endSysex (h.sysex.trans hx), retraces_toIdle h⟩
  · have room : r.sxcnt.toNat < 32 := by rw [(h.inSysex hx).2]; exact hn
    exact ⟨_, (rx_payload (h.sysex.trans hx) hb).trans (execSysexPayload_store room), retraces_storePayload h hx b⟩
  · have trunc : t.Truncates := truncates_of_dropped hn ((rx_payload hx hb).symm.trans run)
    have full : ¬ r.sxcnt.toNat < 32 := by rw [(h.inSysex hx).2]; exact Nat.not_lt.2 hn
    have trunc' : r.Truncates := by rw [State.Truncates, h.cfg]; exact trunc
    exact ⟨r, (rx_payload (h.sysex.trans hx) hb).trans (execSysexPayload_drop full trunc'), h⟩
  · exact ⟨_, rx_data (h.sysex.trans hx) (h.rem ▸ hr) hb, retraces_takeData h hx hr b⟩
  · exact ⟨_, rx_header_of (h.sysex.trans hx) (h.rem ▸ hh), retraces_takeHeader h hx b⟩

theorem retraces_feedRx (bs : List Byte) : ∀ {e s r t : State}, Retraces e s r → feedRx bs s = .next t →
    ∃ u, feedRx bs r = .next u ∧ Retraces e t u := by
  induction bs with
  | nil =>
    intro e s r t h run
    cases run
    exact ⟨r, rfl, h⟩
  | cons b bs ih =>
    intro e s r t h run
    obtain ⟨s1, first, rest⟩ := feedRx_cons_eq_next run
    obtain ⟨r1, first', h1⟩ := retraces_rx h first
    obtain ⟨u, rest', h2⟩ := ih h1 rest
    exact ⟨u, (feedRx_cons_next first').trans rest', h2⟩

theorem feedRx_cfg (bs : List Byte) : ∀ {s t : State}, feedRx bs s = .next t → t.cfg = s.cfg := by
  induction bs with
  | nil =>
    intro s t run
    cases run
    rfl
  | cons b bs ih =>
    intro s t run
    obtain ⟨u, first, rest⟩ := feedRx_cons_eq_next run
    exact (ih rest).trans (update_cfg (.rx b first))

/-! ### The obligations -/

/-- Settles O31: each of the five updates of a Decoder step, in its row of the table. -/
theorem namedStatesFollowTheTransitionTable : Obligations.NamedStatesFollowTheTransitionTable := by
  intro s t b inv h
  have rem3 : s.rem ≠ 3 := rem_ne_three_of_inv inv
  rcases rx_next_cases h with ⟨hx, rfl, rfl⟩ | ⟨hx, hb, hn, rfl⟩ | ⟨hx, hb, hn, rfl⟩ | ⟨hx, hr, hb, rfl⟩ | ⟨hx, hh, rfl⟩
  · rw [named_sysex hx, Named.next, if_pos rfl]
    exact named_idle rfl rfl
  · rw [named_sysex hx, Named.next, if_neg hb, if_pos (show s.sxcnt < 32 from hn)]
    exact named_sysex hx
  · rw [named_sysex hx, Named.next, if_neg hb, if_neg (show ¬ t.sxcnt < 32 from Nat.not_lt.2 hn)]
  · exact named_takeData hx (rem_cases s.rem hr rem3) hb
  · rw [named_takeHeader hx, named_next_header hx hh]

/-- Settles O37, by induction on the bytes. -/
theorem decoderRefinesTheReducedMachine : Obligations.DecoderRefinesTheReducedMachine := by
  intro bs
  induction bs with
  | nil => exact fun s _ _ => ⟨s, rfl, rfl⟩
  | cons b bs ih =>
    intro s inv trunc
    obtain ⟨u, first⟩ := rx_next trunc b
    obtain ⟨t, rest, mini⟩ := ih u (rx_inv first inv) (rx_truncates first trunc)
    exact ⟨t, (feedRx_cons_next first).trans rest, by rw [mini, mini_rx inv first, List.foldl_cons]⟩

/-- Settles O36, by induction on the inputs. -/
theorem agreeingSessionsAreIndistinguishable : Obligations.AgreeingSessionsAreIndistinguishable := by
  intro is
  induction is with
  | nil =>
    intro s s' _ _ _ a
    obtain ⟨-, -, observable, -⟩ := (agree_iff s s').1 a
    exact ⟨s, s', rfl, rfl, observable⟩
  | cons i is ih =>
    intro s s' inv inv' trunc a
    obtain ⟨t, t', e, e', a1⟩ := agree_runInput inv trunc a i
    have trunc1 : t.Truncates := by
      rw [State.Truncates, updates_cfg (runInput_updates e)]
      exact trunc
    rw [feed_cons_next e, feed_cons_next e']
    exact ih t t' (updates_inv (runInput_updates e) inv) (updates_inv (runInput_updates e') inv') trunc1 a1

/-- Settles O35: the second run retraces the first to its end. -/
theorem completeCommandBytesAreIdempotent : Obligations.CompleteCommandBytesAreIdempotent := by
  intro s t bs hs run ht
  obtain ⟨u, again, h⟩ := retraces_feedRx bs (retraces_start hs ht (feedRx_cfg bs run)) run
  obtain ⟨store, buf, sxcnt⟩ := retraces_end h
  obtain ⟨hx, hr⟩ := (isIdle_iff t).1 ht
  exact ⟨u, again, store, buf, sxcnt, (isIdle_iff u).2 ⟨h.sysex.trans hx, h.rem.trans hr⟩⟩

end Sys2Proof.Machine
end
